-- ==== Sys2Proof/Word.lean ====
section
/-! DEFINITION. The word types of the block and the two widths of a computation (00_scope R6, R7, R11). -/

namespace Sys2Proof

/-- A 64-bit register value (R7). -/
abbrev Word64 := BitVec 64

/-- One byte of a register, as a host's bus may show it (R53). -/
abbrev Byte := BitVec 8

/-- The bit width W of a computation; no other width is legal (R6). -/
inductive Width where
  | w32
  | w64
  deriving DecidableEq, Repr

/-- W as a number. -/
def Width.bits : Width → Nat
  | .w32 => 32
  | .w64 => 64

end Sys2Proof
end

