-- ==== Sys2Proof/Syntax.lean ====
section
/-! DEFINITION. The commands of MINE-CMD version 1: one constructor for each row of spec/opcode_table.json (30_encoding R85, R86, R89). -/

namespace Sys2Proof

/-- A command the host can write to CMD. The data operands stand in registers (R82); only TRUNC carries a field of its own. -/
inductive Instr where
  /-- `nop` (R108) -/
  | nop
  /-- `inv.32` (R122) -/
  | inv32
  /-- `inv.64` (R122) -/
  | inv64
  /-- `mulw.32` (R152) -/
  | mulw32
  /-- `mulw.64` (R152) -/
  | mulw64
  /-- `trunc k` (R172): `k` is the 7-bit field K (R84) -/
  | trunc (k : BitVec 7)
  deriving DecidableEq, Repr

end Sys2Proof
end

