-- ==== Sys2Proof/WellFormed.lean ====
section
/-! DEFINITION. Which commands are well formed: the one check beyond the fields' widths is K ≤ 64 for TRUNC (30_encoding R84, R86). -/

namespace Sys2Proof

/-- The command has an encoding that acceptance decodes to it (R86). -/
def Instr.wf : Instr → Bool
  | .nop => true
  | .inv32 => true
  | .inv64 => true
  | .mulw32 => true
  | .mulw64 => true
  | .trunc k => decide (k.toNat ≤ 64)

end Sys2Proof
end

