-- ==== Sys2Proof/Decode.lean ====
section
/-! DEFINITION. The decoder of CMD values, total and rejecting by name (30_encoding R80 to R88), and the encoder. -/

namespace Sys2Proof

/-- Why a CMD value is malformed (the cases of R87), or why bytes are not one CMD value (R80). -/
inductive DecodeError where
  /-- RSVH, RSV1 or RSV0 is not zero -/
  | reservedBits
  /-- OPC is 0x4 to 0xF -/
  | reservedOpcode
  /-- WSEL = 1 with NOP or TRUNC -/
  | wselNotAllowed
  /-- K ≠ 0 with NOP, INV or MULW -/
  | kNotAllowed
  /-- K > 64 with TRUNC -/
  | kTooLarge
  /-- fewer than the eight bytes of one CMD value -/
  | shortWord
  deriving DecidableEq, Repr

/-! The fields of CMD32 (R81). -/

/-- OPC, bits [3:0]. -/
def fieldOPC (v : Word64) : BitVec 4 := v.extractLsb' 0 4

/-- WSEL, bit [4]. -/
def fieldWSEL (v : Word64) : BitVec 1 := v.extractLsb' 4 1

/-- RSV0, bits [7:5]. -/
def fieldRSV0 (v : Word64) : BitVec 3 := v.extractLsb' 5 3

/-- K, bits [14:8]. -/
def fieldK (v : Word64) : BitVec 7 := v.extractLsb' 8 7

/-- RSV1, bits [31:15]. -/
def fieldRSV1 (v : Word64) : BitVec 17 := v.extractLsb' 15 17

/-- RSVH, bits [63:32]. -/
def fieldRSVH (v : Word64) : BitVec 32 := v.extractLsb' 32 32

/-- A command without K whose WSEL chooses between two widths (R83). -/
def decodeByWidth (v : Word64) (narrow wide : Instr) : Except DecodeError Instr :=
  if fieldK v ≠ 0 then .error .kNotAllowed
  else if fieldWSEL v = 0 then .ok narrow else .ok wide

/-- TRUNC, whose K is legal up to 64 (R84). -/
def decodeTrunc (v : Word64) : Except DecodeError Instr :=
  if fieldWSEL v ≠ 0 then .error .wselNotAllowed
  else if (fieldK v).toNat ≤ 64 then .ok (.trunc (fieldK v)) else .error .kTooLarge

/-- NOP, which allows no other bit set (R86). -/
def decodeNop (v : Word64) : Except DecodeError Instr :=
  if fieldWSEL v ≠ 0 then .error .wselNotAllowed
  else if fieldK v ≠ 0 then .error .kNotAllowed else .ok .nop

/-- The decoding of any CMD value: a command, or a named reason why the value is malformed (R85 to R88). -/
def decode (v : Word64) : Except DecodeError Instr :=
  if fieldRSVH v ≠ 0 ∨ fieldRSV1 v ≠ 0 ∨ fieldRSV0 v ≠ 0 then .error .reservedBits
  else if fieldOPC v = 0x0 then decodeNop v
  else if fieldOPC v = 0x1 then decodeByWidth v .inv32 .inv64
  else if fieldOPC v = 0x2 then decodeByWidth v .mulw32 .mulw64
  else if fieldOPC v = 0x3 then decodeTrunc v
  else .error .reservedOpcode

/-- A CMD value from its fields, RSVH highest (R81). -/
def packCommand (rsvh : BitVec 32) (rsv1 : BitVec 17) (k : BitVec 7) (rsv0 : BitVec 3) (wsel : BitVec 1) (opc : BitVec 4) : Word64 :=
  rsvh ++ rsv1 ++ k ++ rsv0 ++ wsel ++ opc

/-- The CMD value that spells a command: the encoding of R86, all reserved fields zero. -/
def encode : Instr → Word64
  | .nop => packCommand 0 0 0 0 0 0x0
  | .inv32 => packCommand 0 0 0 0 0 0x1
  | .inv64 => packCommand 0 0 0 0 1 0x1
  | .mulw32 => packCommand 0 0 0 0 0 0x2
  | .mulw64 => packCommand 0 0 0 0 1 0x2
  | .trunc k => packCommand 0 0 k 0 0 0x3

/-! The bytes of a register value on a bus that shows bytes, lowest address first (R53). -/

/-- Byte `j` of a register value: its bits [8j+7 : 8j]. -/
def byteLane (v : Word64) (j : Nat) : Byte := v.extractLsb' (8 * j) 8

/-- The eight bytes of a register value in the order of their addresses. -/
def bytesOf (v : Word64) : List Byte :=
  [byteLane v 0, byteLane v 1, byteLane v 2, byteLane v 3, byteLane v 4, byteLane v 5, byteLane v 6, byteLane v 7]

/-- Decode the first eight bytes as one CMD value and return the rest. -/
def decodeBytes : List Byte → Except DecodeError (Instr × List Byte)
  | b0 :: b1 :: b2 :: b3 :: b4 :: b5 :: b6 :: b7 :: rest =>
    match decode (b7 ++ b6 ++ b5 ++ b4 ++ b3 ++ b2 ++ b1 ++ b0) with
    | .ok i => .ok (i, rest)
    | .error e => .error e
  | _ => .error .shortWord

/-- The bytes of a command as CMD takes them. -/
def encodeBytes (i : Instr) : List Byte := bytesOf (encode i)

/-- The instruction the decoder reads from an opcode-table word of `nbits` bits, every higher bit zero. -/
def decodeTableWord (nbits w : Nat) : Option Instr :=
  if w % 2 ^ nbits < 2 ^ 64 then
    match decode (BitVec.ofNat 64 (w % 2 ^ nbits)) with
    | .ok i => some i
    | .error _ => none
  else none

end Sys2Proof
end

