-- ==== Sys2Proof/Machine/State.lean ====
section
/-! DEFINITION. The block's state as plain data, the two agents' pending actions, the reasons a step can stop, and the state after reset (10_state, 60_exceptions R206, 70_reset R240). -/

namespace Sys2Proof.Machine

/-- STATUS.CAUSE by name; codes 4 to 15 are reserved and never produced (R24). -/
inductive Cause where
  | none
  | evenOperand
  | malformedCommand
  | internalInvariant
  deriving DecidableEq, Repr

/-- The fields of STATUS (R24). The reserved bits read 0 and hold nothing. -/
structure Status where
  busy : Bool
  done : Bool
  err : Bool
  fatal : Bool
  cause : Cause
  stage : BitVec 4
  deriving DecidableEq, Repr

/-- eng.phase (R33). -/
inductive Phase where
  | idle
  | nop
  | inv (i : Nat)
  | mul
  | trunc
  | halted
  deriving DecidableEq, Repr

/-- The two agents (00_scope R15). -/
inductive Agent where
  | host
  | engine
  deriving DecidableEq, Repr

/-- One choice of the scheduler: the agent that moves, and whether the reset input is asserted with it (R61, R241). -/
structure Turn where
  agent : Agent
  reset : Bool
  deriving DecidableEq, Repr

/-- One line of what the host still does (R15, R90, R91). Offsets and sizes are what the host's bus gives, legal or not. -/
inductive HostAction where
  /-- `MemRead(off, n)` -/
  | read (off n : Nat)
  /-- `MemWrite(off, n, v)` -/
  | write (off n : Nat) (v : Word64)
  /-- assert the block's reset -/
  | reset
  /-- repeat reads of STATUS until BUSY = 0 is read -/
  | wait
  /-- `MemRead(off, n)` only if bit 1 (DONE) of the value last read is 1 -/
  | readIfDone (off n : Nat)
  deriving DecidableEq, Repr

/-- Everything the spec gives the machine, and what its two agents do next. -/
structure State where
  /-- STATUS (R24) -/
  status : Status
  /-- OPERAND_A: a value, or no value (R21) -/
  operandA : Option Word64
  /-- OPERAND_B: a value, or no value (R21) -/
  operandB : Option Word64
  /-- RESULT: valid with a value, or invalid (R29) -/
  result : Option Word64
  /-- eng.phase (R33) -/
  phase : Phase
  /-- eng.W (R32) -/
  engW : Width
  /-- eng.AW (R32) -/
  engAW : Word64
  /-- eng.BW (R32) -/
  engBW : Word64
  /-- eng.K (R32) -/
  engK : Nat
  /-- eng.X (R32) -/
  engX : Word64
  /-- the model's own: how many free values have been drawn for the engine's registers (log 3) -/
  draws : Nat
  /-- the model's own: what the host still does, in its program order (log 5) -/
  program : List HostAction
  /-- the model's own: the scheduler's next choices (log 4) -/
  schedule : List Turn
  /-- the model's own: what the host's last read returned (log 6) -/
  busData : Option Word64
  deriving DecidableEq, Repr

/-- Why a step stops as a model fault (R14, R206). -/
inductive Fault where
  /-- acceptance of INV, MULW or TRUNC needs an operand register that holds no value: the spec's own model
  fault `OperandUnwritten` (R101, R206, 93 item 7); safe -/
  | operandUnwritten
  /-- the host reads an operand register that holds no value: the spec's own model fault `ReadUnwritten` (R54, R206, 93
  item 6); safe -/
  | readUnwritten
  /-- the host reads RESULT while it is invalid: the spec's own model fault `ReadInvalidResult` (R30, R54, R206, 93 item
  5); safe -/
  | readInvalidResult
  /-- the host accesses an offset that is not in the window (R50, log 9); safe -/
  | outsideWindow
  /-- no agent has an enabled step (R14, log 8); safe -/
  | stuck
  deriving DecidableEq, Repr

/-- Why a step is refused (R14, R206). -/
inductive Refusal where
  /-- `exec`: the command has no meaning yet; safe -/
  | notModelled (mnemonic : String)
  /-- an access of any size to offset 0x28, 0x30 or 0x38 (R51); safe -/
  | reservedOffset
  /-- an access of size other than 8, or misaligned (R52); safe -/
  | narrowOrMisalignedAccess
  /-- a host write to CMD, OPERAND_A or OPERAND_B while BUSY = 1 (R57); safe -/
  | hostWriteWhileBusy
  deriving DecidableEq, Repr

/-- The machine right after reset: R37 for what the spec gives, log 3 for the internal registers it leaves unspecified and
their count of draws, logs 4 to 6 for the model's other own fields. -/
def State.reset : State where
  status := { busy := false, done := false, err := false, fatal := false, cause := .none, stage := 0 }
  operandA := none
  operandB := none
  result := none
  phase := .idle
  engW := .w32
  engAW := 0
  engBW := 0
  engK := 0
  engX := 0
  draws := 0
  program := []
  schedule := []
  busData := none

end Sys2Proof.Machine
end

