-- ==== Sys2Proof/Machine/Flags.lean ====
section
/-! DEFINITION. STATUS: its codes, the word a host reads, and every computation that changes it (10_state R24, R25, R27). -/

namespace Sys2Proof.Machine

/-- The code of a cause in STATUS[7:4] (R24). -/
def Cause.code : Cause → BitVec 4
  | .none => 0
  | .evenOperand => 1
  | .malformedCommand => 2
  | .internalInvariant => 3

/-- STATUS as a host reads it: reserved bits [63:12] zero, then STAGE, CAUSE, FATAL, ERR, DONE, BUSY (R24). -/
def Status.toWord (f : Status) : Word64 :=
  (0 : BitVec 52) ++ f.stage ++ f.cause.code ++ BitVec.ofBool f.fatal ++ BitVec.ofBool f.err ++ BitVec.ofBool f.done ++ BitVec.ofBool f.busy

/-- STATUS <- 0 (R240). -/
def Status.zero : Status :=
  { busy := false, done := false, err := false, fatal := false, cause := .none, stage := 0 }

/-- What acceptance clears before it decodes: DONE, ERR, CAUSE and STAGE (R101). -/
def Status.cleared (f : Status) : Status :=
  { f with done := false, err := false, cause := .none, stage := 0 }

/-- BUSY <- 1, when acceptance starts the engine (R101). -/
def Status.started (f : Status) : Status := { f with busy := true }

/-- BUSY <- 0 and DONE <- 1, at completion (R106). -/
def Status.completed (f : Status) : Status := { f with busy := false, done := true }

/-- ERR <- 1, CAUSE <- c, STAGE <- 0 (R203). -/
def Status.invalidInput (c : Cause) (f : Status) : Status := { f with err := true, cause := c, stage := 0 }

/-- BUSY <- 0, FATAL <- 1, CAUSE <- 3, STAGE <- s (R204). -/
def Status.violated (stage : BitVec 4) (f : Status) : Status :=
  { f with busy := false, fatal := true, cause := .internalInvariant, stage := stage }

end Sys2Proof.Machine
end

