-- ==== Sys2Proof/Config.lean ====
section
/-! DEFINITION. What the platform fixes and the spec leaves open: the window's base address (00_scope R10, 20_memory R50, D3), and the free values of the engine's registers outside a command (10_state R32, 93 item 8). -/

namespace Sys2Proof

/-- The number of whole 0x40-byte windows below this one in the host's address space: the platform's choice (log 10). -/
opaque Config.baseBlock : Nat

/-- BASE, the window's first address, with the alignment R50 requires. -/
def Config.base : Nat := 0x40 * Config.baseBlock

/-! Free values, one draw for each number (log 3): what the engine's registers hold once their command has ended (R32). -/

/-- Whether eng.W is 64. -/
opaque Config.freeWide : Nat → Bool

/-- eng.AW. -/
opaque Config.freeAW : Nat → Word64

/-- eng.BW. -/
opaque Config.freeBW : Nat → Word64

/-- eng.X. -/
opaque Config.freeX : Nat → Word64

/-- eng.K, before it is brought into its range 0 .. 64. -/
opaque Config.freeK : Nat → Nat

end Sys2Proof
end

