-- ==== Sys2Proof/Machine/Units.lean ====
section
/-! DEFINITION. The two sub-units as exact integer operations narrowed at the end: the mask_and_truncate_unit (43 R170) and the fixed_width_multiplier (42 R150). -/

namespace Sys2Proof.Machine

/-- MASK_k(v) = v mod 2^k, the floor modulus of any integer (R12, R170). -/
def mask (k : Nat) (v : Int) : Nat := (v % ((2 ^ k : Nat) : Int)).toNat

/-- MUL_W(p, q) = (p · q) mod 2^W (R150). -/
def mulMod (W : Width) (p q : Nat) : Nat := (p * q) % 2 ^ W.bits

end Sys2Proof.Machine
end

