-- ==== Sys2Proof/Machine/Operands.lean ====
section
/-! DEFINITION. Where operands come from: the registers of the window, how an access selects one (20_memory R50 to R53), and the truncation of an operand as it is latched (40 R101, 43 R170). -/

namespace Sys2Proof.Machine

/-- The five registers a host sees (R20). -/
inductive Reg where
  | cmd
  | status
  | operandA
  | operandB
  | result
  deriving DecidableEq, Repr

/-- A register's byte offset in the window (R50). -/
def Reg.offset : Reg → Nat
  | .cmd => 0x00
  | .status => 0x08
  | .operandA => 0x10
  | .operandB => 0x18
  | .result => 0x20

/-- What an access of size `n` at offset `off` selects. -/
inductive Access where
  | register (r : Reg)
  | reservedOffset
  | narrowOrMisaligned
  | outsideWindow
  deriving DecidableEq, Repr

/-- An access at a reserved offset, of any size (R51), comes first (log 12); then size and alignment (R52); an aligned
offset that is left over is not in the window (R50, log 9). -/
def accessAt (off n : Nat) : Access :=
  if off = 0x28 ∨ off = 0x30 ∨ off = 0x38 then .reservedOffset
  else if n ≠ 8 ∨ off % 8 ≠ 0 then .narrowOrMisaligned
  else if off = 0x00 then .register .cmd
  else if off = 0x08 then .register .status
  else if off = 0x10 then .register .operandA
  else if off = 0x18 then .register .operandB
  else if off = 0x20 then .register .result
  else .outsideWindow

/-- The host address of byte `j` of the register at offset `off` (R53). -/
def byteAddress (off j : Nat) : Nat := Config.base + off + j

/-- An operand as INV and MULW latch it: MASK_W of the register, zero-extended (R101, D9). -/
def latch (W : Width) (v : Word64) : Word64 := BitVec.ofNat 64 (mask W.bits (v.toNat : Int))

end Sys2Proof.Machine
end

