-- ==== Sys2Proof/Machine/Ops.lean ====
section
/-! DEFINITION. The shared operations of the block: reset, the gate of a host write, acceptance's common part, completion, and the two error entries (20 R57, R58; 40 R100, R101, R106; 60 R203, R204; 70 R240). -/

namespace Sys2Proof.Machine

/-- The engine's registers take free values: outside a command in progress they are unspecified (R32, 93 item 8, log 3). -/
def dropLatches (s : State) : State :=
  { s with
    engW := if Config.freeWide s.draws then .w64 else .w32
    engAW := Config.freeAW s.draws
    engBW := Config.freeBW s.draws
    engK := Config.freeK s.draws % 65
    engX := Config.freeX s.draws
    draws := s.draws + 1 }

/-- Reset, one atomic step (R240), which leaves the internal registers unspecified; the agents' own data stay. -/
def resetBlock (s : State) : State :=
  dropLatches
    { State.reset with program := s.program, schedule := s.schedule, busData := s.busData, draws := s.draws }

/-- A host write to CMD, OPERAND_A or OPERAND_B: refused while BUSY = 1 (R57), without effect while FATAL = 1 (R58),
in that order (R55); otherwise `effect`. -/
def gatedWrite (effect : State → Host.Outcome State Fault Refusal) (s : State) : Host.Outcome State Fault Refusal :=
  if s.status.busy then .refused .hostWriteWhileBusy
  else if s.status.fatal then .next s
  else effect s

/-- Acceptance (R100, R101): the gate, then DONE, ERR, CAUSE and STAGE cleared, then the command's own part. -/
def acceptCommand (start : State → Host.Outcome State Fault Refusal) (s : State) : Host.Outcome State Fault Refusal :=
  gatedWrite (fun t => start { t with status := t.status.cleared }) s

/-- `raise InvalidInputError(c)` (R203): of what a rule reads only STATUS changes; acceptance has made RESULT invalid
already. -/
def raiseInvalidInput (c : Cause) (s : State) : State :=
  dropLatches { s with status := s.status.invalidInput c }

/-- `raise InternalInvariantViolation(stage)` (R204): RESULT invalid and the engine halted. -/
def raiseInternalInvariant (stage : BitVec 4) (s : State) : State :=
  dropLatches { s with status := s.status.violated stage, result := none, phase := .halted }

/-- The engine starts on an accepted command: its phase, and BUSY <- 1 (R101). -/
def startEngine (p : Phase) (s : State) : State :=
  { s with status := s.status.started, phase := p }

/-- `complete(r)` (R106): RESULT written unless `r` is none, BUSY cleared, DONE set and the engine Idle, in one step. -/
def complete (r : Option Word64) (s : State) : State :=
  dropLatches
    { s with
      result := match r with
        | some v => some v
        | none => s.result
      status := s.status.completed
      phase := .idle }

/-- `require OPERAND_A has a value`, "else model fault OperandUnwritten" (R101, R206), and its one read (R102). -/
def withOperandA (s : State) (k : Word64 → Host.Outcome State Fault Refusal) : Host.Outcome State Fault Refusal :=
  match s.operandA with
  | some a => k a
  | none => .fault .operandUnwritten

/-- MULW's `require` of OPERAND_B, "else model fault OperandUnwritten" (R101, R206), and its one read (R102). -/
def withOperandB (s : State) (k : Word64 → Host.Outcome State Fault Refusal) : Host.Outcome State Fault Refusal :=
  match s.operandB with
  | some b => k b
  | none => .fault .operandUnwritten

/-- Acceptance of a malformed CMD value (R87, R101, R202): RESULT invalid and CAUSE 2; no operand is read (R103). -/
def acceptMalformed (s : State) : Host.Outcome State Fault Refusal :=
  acceptCommand (fun t => .next (raiseInvalidInput .malformedCommand { t with result := none })) s

end Sys2Proof.Machine
end

