-- ==== Sys2Proof/Machine/Inverse.lean ====
section
/-! DEFINITION. INV, the Newton-Hensel inverse (41_inverse_engine R120 to R124; 00_scope R8, R9). -/

namespace Sys2Proof.Machine

/-- N(W), the number of updates (R8, C1). -/
def updates : Width → Nat
  | .w32 => 4
  | .w64 => 6

/-- k_i = min(3·2^i, W), the threshold of checkpoint i (R9, R123). -/
def threshold (W : Width) (i : Nat) : Nat := min (3 * 2 ^ i) W.bits

/-- upd(a, x, W) = MASK_W(x + x - MUL_W(MUL_W(a, x), x)), the subtraction over the integers (R120). -/
def upd (a x : Nat) (W : Width) : Nat :=
  mask W.bits ((x : Int) + (x : Int) - (mulMod W (mulMod W a x) x : Int))

/-- The INV arm of acceptance (R101): RESULT invalid and the operand latched, then the parity test (R201). -/
def startInverse (W : Width) (s : State) : Host.Outcome State Fault Refusal :=
  withOperandA s fun a =>
    let t := { s with result := none, engW := W, engAW := latch W a }
    if t.engAW.getLsbD 0 then .next (startEngine (.inv 0) { t with engX := t.engAW })
    else .next (raiseInvalidInput .evenOperand t)

/-- `inv.32` at acceptance. -/
def execInv32 (s : State) : Host.Outcome State Fault Refusal := acceptCommand (startInverse .w32) s

/-- `inv.64` at acceptance. -/
def execInv64 (s : State) : Host.Outcome State Fault Refusal := acceptCommand (startInverse .w64) s

/-- The engine step in phase Inv(i) (R122): checkpoint i; then the next update, or at i = N(W) the final check and
completion. -/
def stepInv (i : Nat) (s : State) : State :=
  let W := s.engW
  let a := s.engAW.toNat
  let x := s.engX.toNat
  if mask (threshold W i) (mulMod W x a : Int) ≠ 1 then raiseInternalInvariant (BitVec.ofNat 4 i) s
  else if i < updates W then { s with engX := BitVec.ofNat 64 (upd a x W), phase := .inv (i + 1) }
  else if mulMod W x a ≠ 1 ∨ s.engX.getLsbD 0 = false then raiseInternalInvariant 15 s
  else complete (some s.engX) s

end Sys2Proof.Machine
end

