-- ==== Sys2Proof/Machine/Multiply.lean ====
section
/-! DEFINITION. MULW, the fixed_width_multiplier as a command (42_fixed_width_multiplier R151, R152). -/

namespace Sys2Proof.Machine

/-- The MULW arm of acceptance (R101, R151): both operands latched, truncated to W bits. -/
def startMultiply (W : Width) (s : State) : Host.Outcome State Fault Refusal :=
  withOperandA s fun a => withOperandB s fun b =>
    .next (startEngine .mul { s with result := none, engW := W, engAW := latch W a, engBW := latch W b })

/-- `mulw.32` at acceptance. -/
def execMulw32 (s : State) : Host.Outcome State Fault Refusal := acceptCommand (startMultiply .w32) s

/-- `mulw.64` at acceptance. -/
def execMulw64 (s : State) : Host.Outcome State Fault Refusal := acceptCommand (startMultiply .w64) s

/-- The engine step in phase Mul: `complete(zext_64(MUL_W(eng.AW, eng.BW)))` (R152). -/
def stepMul (s : State) : State :=
  complete (some (BitVec.ofNat 64 (mulMod s.engW s.engAW.toNat s.engBW.toNat))) s

end Sys2Proof.Machine
end

