-- ==== Sys2Proof/Machine/Nop.lean ====
section
/-! DEFINITION. NOP (40_command_dispatch R108). -/

namespace Sys2Proof.Machine

/-- `nop` at acceptance: the engine starts and RESULT is unchanged (R101, R108). -/
def execNop (s : State) : Host.Outcome State Fault Refusal :=
  acceptCommand (fun t => .next (startEngine .nop t)) s

/-- The engine step in phase Nop: `complete(none)` (R108). -/
def stepNop (s : State) : State := complete none s

end Sys2Proof.Machine
end

