-- ==== Sys2Proof/Machine/Truncate.lean ====
section
/-! DEFINITION. TRUNC, the mask_and_truncate_unit as a command (43_mask_and_truncate R171, R172). -/

namespace Sys2Proof.Machine

/-- The TRUNC arm of acceptance (R101, R171): K and all 64 bits of OPERAND_A latched. -/
def startTruncate (k : BitVec 7) (s : State) : Host.Outcome State Fault Refusal :=
  withOperandA s fun a =>
    .next (startEngine .trunc { s with result := none, engK := k.toNat, engAW := a })

/-- `trunc k` at acceptance. -/
def execTrunc (k : BitVec 7) (s : State) : Host.Outcome State Fault Refusal := acceptCommand (startTruncate k) s

/-- The engine step in phase Trunc: `complete(zext_64(MASK_K(eng.AW)))` (R172). -/
def stepTrunc (s : State) : State :=
  complete (some (BitVec.ofNat 64 (mask s.engK (s.engAW.toNat : Int)))) s

end Sys2Proof.Machine
end

