-- ==== Sys2Proof/Machine/Engine.lean ====
section
/-! DEFINITION. One step of the engine agent, by eng.phase (40_command_dispatch R105, R106). -/

namespace Sys2Proof.Machine

/-- The engine step by eng.phase (R106). In Idle and Halted it has none (R105, log 8). -/
def engineStep (s : State) : Host.Outcome State Fault Refusal :=
  match s.phase with
  | .nop => .next (stepNop s)
  | .inv i => .next (stepInv i s)
  | .mul => .next (stepMul s)
  | .trunc => .next (stepTrunc s)
  | .idle => .fault .stuck
  | .halted => .fault .stuck

end Sys2Proof.Machine
end

