-- ==== Sys2Proof/Machine/Dispatch.lean ====
section
/-! DEFINITION. The meaning of each command: its acceptance, R101's arm for it. The engine steps it starts are `engineStep`. -/

namespace Sys2Proof.Machine

def exec (i : Instr) (s : State) : Host.Outcome State Fault Refusal :=
  match i with
  | .nop => Sys2Proof.Machine.execNop s
  | .inv32 => Sys2Proof.Machine.execInv32 s
  | .inv64 => Sys2Proof.Machine.execInv64 s
  | .mulw32 => Sys2Proof.Machine.execMulw32 s
  | .mulw64 => Sys2Proof.Machine.execMulw64 s
  | .trunc k => Sys2Proof.Machine.execTrunc k s

end Sys2Proof.Machine
end

