-- ==== Sys2Proof/Machine/Window.lean ====
section
/-! DEFINITION. Host accesses to the register window (20_memory R51, R52, R54, R55). -/

namespace Sys2Proof.Machine

/-- `MemRead(off, n)` (R54): the value read, with no effect on any state. R54 itself names the model faults: `ReadUnwritten`
for an operand register with no value, `ReadInvalidResult` for an invalid RESULT (also R30, R206). -/
def memRead (off n : Nat) (s : State) : Host.Outcome Word64 Fault Refusal :=
  match accessAt off n with
  | .reservedOffset => .refused .reservedOffset
  | .narrowOrMisaligned => .refused .narrowOrMisalignedAccess
  | .outsideWindow => .fault .outsideWindow
  | .register .cmd => .next 0
  | .register .status => .next s.status.toWord
  | .register .operandA =>
    match s.operandA with
    | some v => .next v
    | none => .fault .readUnwritten
  | .register .operandB =>
    match s.operandB with
    | some v => .next v
    | none => .fault .readUnwritten
  | .register .result =>
    match s.result with
    | some v => .next v
    | none => .fault .readInvalidResult

/-- Acceptance of the CMD value `v` (R101): decode, then the command's arm; a value that decodes to no command is
malformed (R87). Each arm passes the gate of R57 and R58 first. -/
def acceptWord (v : Word64) (s : State) : Host.Outcome State Fault Refusal :=
  match decode v with
  | .ok i => exec i s
  | .error _ => acceptMalformed s

/-- `MemWrite(off, n, v)` (R55), one atomic step of the host. -/
def memWrite (off n : Nat) (v : Word64) (s : State) : Host.Outcome State Fault Refusal :=
  match accessAt off n with
  | .reservedOffset => .refused .reservedOffset
  | .narrowOrMisaligned => .refused .narrowOrMisalignedAccess
  | .outsideWindow => .fault .outsideWindow
  | .register .cmd => acceptWord v s
  | .register .operandA => gatedWrite (fun t => .next { t with operandA := some v }) s
  | .register .operandB => gatedWrite (fun t => .next { t with operandB := some v }) s
  | .register .status => .next s
  | .register .result => .next s

end Sys2Proof.Machine
end

