-- ==== Sys2Proof/Machine/Agents.lean ====
section
/-! DEFINITION. The steps of the host agent and the interleaving of the two agents (00_scope R15; 20_memory R61; 30 R90; 40 R105; 70 R241). -/

namespace Sys2Proof.Machine

/-- A host read: the value goes to the host and nothing else changes (R54, log 6). -/
def hostRead (off n : Nat) (s : State) : Host.Outcome State Fault Refusal :=
  match memRead off n s with
  | .next v => .next { s with busData := some v }
  | .fault r => .fault r
  | .refused r => .refused r

/-- One read of STATUS by `wait` (R90): the action stands again at the front of the program while the bit read is 1. -/
def hostWait (s : State) : Host.Outcome State Fault Refusal :=
  .next { s with
    busData := some s.status.toWord
    program := if s.status.toWord.getLsbD 0 then .wait :: s.program else s.program }

/-- DONE, bit 1 of the value the host read last (R91). -/
def lastReadDone (s : State) : Bool :=
  match s.busData with
  | some v => v.getLsbD 1
  | none => false

/-- One action of the host, taken off its program already (R90). -/
def hostAction (act : HostAction) (s : State) : Host.Outcome State Fault Refusal :=
  match act with
  | .read off n => hostRead off n s
  | .write off n v => memWrite off n v s
  | .reset => .next (resetBlock s)
  | .wait => hostWait s
  | .readIfDone off n => if lastReadDone s then hostRead off n s else .next s

/-- The host's next action in its program order (R61); with none left it has no step. -/
def hostStep (s : State) : Host.Outcome State Fault Refusal :=
  match s.program with
  | act :: rest => hostAction act { s with program := rest }
  | [] => .fault .stuck

/-- No agent has an enabled step (R14): BUSY = 0 and the host's program is done; and no turn left asserts the reset input,
which is no agent's step but changes the block (R240, log 8). -/
def noStepLeft (s : State) : Bool :=
  !s.status.busy && s.program.isEmpty && s.schedule.all fun t => !t.reset

/-- The agent moves if it has an enabled step (R105); otherwise the scheduler's choice passes and nothing changes (log 4). -/
def agentTurn (a : Agent) (s : State) : Host.Outcome State Fault Refusal :=
  match a with
  | .engine => if s.status.busy then engineStep s else .next s
  | .host => if s.program.isEmpty then .next s else hostStep s

/-- The scheduler's next turn. An asserted reset comes before the turn it coincides with (R241, log 14). With no choice left
the engine moves while BUSY = 1 (fairness, R110) and the host moves otherwise. -/
def scheduledStep (s : State) : Host.Outcome State Fault Refusal :=
  match s.schedule with
  | t :: rest =>
    if t.reset then .next (resetBlock { s with schedule := { t with reset := false } :: rest })
    else agentTurn t.agent { s with schedule := rest }
  | [] => if s.status.busy then engineStep s else hostStep s

/-- One step of the machine: stuck where no agent has an enabled step (R14), else the scheduler's next turn. -/
def systemStep (s : State) : Host.Outcome State Fault Refusal :=
  if noStepLeft s then .fault .stuck else scheduledStep s

end Sys2Proof.Machine
end

