-- ==== Sys2Proof/Machine/Step.lean ====
section
/-! DEFINITION. The step function, and how the host of the pipeline places one command word to run next. -/

namespace Sys2Proof.Machine

/-- One step of the machine. -/
def step (s : State) : Host.Outcome State Fault Refusal := systemStep s

/-- `s` with the host about to write the CMD value `w` (its low `nbits` bits, every higher bit zero) and to move next, and
with both operand registers holding a value: a host that writes CMD has written its operands before (R244). An operand
register that holds no value gets 1, one that holds a value keeps it (log 5). -/
def State.withFetchWord (s : State) (nbits w : Nat) : State :=
  { s with
    program := .write 0x00 8 (BitVec.ofNat 64 (w % 2 ^ nbits)) :: s.program
    schedule := { agent := .host, reset := false } :: s.schedule
    operandA := some (s.operandA.getD 1)
    operandB := some (s.operandB.getD 1) }

end Sys2Proof.Machine
end

