-- ==== Sys2Proof/Machine/HostProgram.lean ====
section
/-! DEFINITION. The spec's own notation for what a host does: mnemonics, host lines and pseudo-instructions as host actions (30_encoding R89, R90, R91). -/

namespace Sys2Proof.Machine

/-- The mnemonic of a command as R89 writes it. -/
def mnemonicText : Instr → String
  | .nop => "nop"
  | .inv32 => "inv.32"
  | .inv64 => "inv.64"
  | .mulw32 => "mulw.32"
  | .mulw64 => "mulw.64"
  | .trunc k => "trunc " ++ toString k.toNat

/-- A line of a host program (R90). -/
inductive HostLine where
  | wr (r : Reg) (imm : Word64)
  | cmd (i : Instr)
  | rd (r : Reg)
  | wait
  | reset
  deriving DecidableEq, Repr

/-- The bus transaction of a line (R90). -/
def HostLine.action : HostLine → HostAction
  | .wr r imm => .write r.offset 8 imm
  | .cmd i => .write Reg.cmd.offset 8 (encode i)
  | .rd r => .read r.offset 8
  | .wait => .wait
  | .reset => .reset

/-- `inv.W` by its width. -/
def invOf : Width → Instr
  | .w32 => .inv32
  | .w64 => .inv64

/-- `mulw.W` by its width. -/
def mulwOf : Width → Instr
  | .w32 => .mulw32
  | .w64 => .mulw64

/-- A pseudo-instruction (R91). -/
inductive Pseudo where
  /-- `inverse.W $x, a` -/
  | inverse (W : Width) (a : Word64)
  /-- `mul.W $p, a, b` -/
  | mul (W : Width) (a b : Word64)
  /-- `mask.k $t, a` -/
  | mask (k : BitVec 7) (a : Word64)
  /-- `clear` -/
  | clear
  deriving DecidableEq, Repr

/-- The common end of three expansions: `wait`, `rd STATUS`, and `rd RESULT` only if DONE was read (R91). -/
def readBack : List HostAction :=
  [.wait, .read Reg.status.offset 8, .readIfDone Reg.result.offset 8]

/-- The expansion of a pseudo-instruction (R91). -/
def Pseudo.expand : Pseudo → List HostAction
  | .inverse W a => [(HostLine.wr .operandA a).action, (HostLine.cmd (invOf W)).action] ++ readBack
  | .mul W a b => [(HostLine.wr .operandA a).action, (HostLine.wr .operandB b).action, (HostLine.cmd (mulwOf W)).action] ++ readBack
  | .mask k a => [(HostLine.wr .operandA a).action, (HostLine.cmd (.trunc k)).action] ++ readBack
  | .clear => [(HostLine.cmd .nop).action, .wait]

end Sys2Proof.Machine
end

