-- ==== Sys2Proof/Safety.lean ====
section
/-! DEFINITION. The terms statements use: outcomes by kind, the run of one command by the engine alone, and the invariants of the machine (10_state R24, R26, R29, R32, R33; 60 R205). -/

namespace Sys2Proof.Machine

/-! Outcomes by kind. -/

/-- The next state, if the step has one. -/
def stateOf (o : Host.Outcome State Fault Refusal) : Option State :=
  match o with
  | .next t => some t
  | .fault _ => none
  | .refused _ => none

/-- The fault, if the outcome is one. -/
def faultOf {α : Type} (o : Host.Outcome α Fault Refusal) : Option Fault :=
  match o with
  | .next _ => none
  | .fault r => some r
  | .refused _ => none

/-- The refusal, if the outcome is one. -/
def refusalOf {α : Type} (o : Host.Outcome α Fault Refusal) : Option Refusal :=
  match o with
  | .next _ => none
  | .fault _ => none
  | .refused r => some r

/-! States and outcomes up to what the spec leaves unspecified outside a command in progress. -/

/-- The state without the engine's registers of R32 and the count of their draws: eng.phase, what a host can see, and
what the agents do next. -/
def State.withoutLatches (s : State) : State :=
  { s with engW := .w32, engAW := 0, engBW := 0, engK := 0, engX := 0, draws := 0 }

/-- An outcome whose next state is taken without the engine's registers. -/
def seen (o : Host.Outcome State Fault Refusal) : Host.Outcome State Fault Refusal :=
  match o with
  | .next t => .next t.withoutLatches
  | .fault r => .fault r
  | .refused r => .refused r

/-- The outcome is a next state, and it is `u` but for the engine's registers, which are unspecified there (R32). -/
abbrev EndsAs (o : Host.Outcome State Fault Refusal) (u : State) : Prop := seen o = .next u.withoutLatches

/-! A command run by the engine alone. -/

/-- At most `n` engine steps, stopping as soon as BUSY = 0 (R105). -/
def settle : Nat → State → Host.Outcome State Fault Refusal
  | 0, s => .next s
  | n + 1, s =>
    if s.status.busy then
      match engineStep s with
      | .next t => settle n t
      | .fault r => .fault r
      | .refused r => .refused r
    else .next s

/-- The acceptance of a command and then the engine's steps until BUSY = 0; seven are enough for any command (R110). -/
def runCommand (i : Instr) (s : State) : Host.Outcome State Fault Refusal :=
  match exec i s with
  | .next t => settle 7 t
  | .fault r => .fault r
  | .refused r => .refused r

/-- x_i, the value after i updates; x_0 = a (R123). -/
def approx (a : Nat) (W : Width) : Nat → Nat
  | 0 => a
  | i + 1 => upd a (approx a W i) W

/-- Acceptance may happen: BUSY = 0 and FATAL = 0 (R100). -/
abbrev Ready (s : State) : Prop := s.status.busy = false ∧ s.status.fatal = false

/-! The four values STATUS takes while FATAL = 0 and a command has been written: 0x01, 0x02, 0x14 and 0x24 (90_conflicts C8). -/

/-- BUSY alone. -/
def Status.inProgress : Status :=
  { busy := true, done := false, err := false, fatal := false, cause := .none, stage := 0 }

/-- DONE alone. -/
def Status.succeeded : Status :=
  { busy := false, done := true, err := false, fatal := false, cause := .none, stage := 0 }

/-- ERR with EVEN_OPERAND. -/
def Status.evenOperandError : Status :=
  { busy := false, done := false, err := true, fatal := false, cause := .evenOperand, stage := 0 }

/-- ERR with MALFORMED_COMMAND. -/
def Status.malformedError : Status :=
  { busy := false, done := false, err := true, fatal := false, cause := .malformedCommand, stage := 0 }

/-! What the next step is. -/

/-- Who moves next, or nobody. -/
inductive Move where
  /-- the reset input is asserted (R241) -/
  | reset
  /-- the host performs this action -/
  | host (act : HostAction)
  /-- the engine -/
  | engine
  /-- the scheduler chose an agent without an enabled step, while the other has one or a reset is to come (log 4) -/
  | pass
  /-- no agent has an enabled step and no reset is to come (R14, log 8) -/
  | stuck
  deriving DecidableEq, Repr

/-- The host's next action, or `idle` where its program is done. -/
def hostMove (idle : Move) : List HostAction → Move
  | act :: _ => .host act
  | [] => idle

/-- The move `step` makes in a state (R15, R61, R105, R241). -/
def moveOf (s : State) : Move :=
  if noStepLeft s then .stuck
  else
    match s.schedule with
    | t :: _ =>
      if t.reset then .reset
      else
        match t.agent with
        | .engine => if s.status.busy then .engine else .pass
        | .host => hostMove .pass s.program
    | [] => if s.status.busy then .engine else hostMove .stuck s.program

/-- The host action is an access of size `n` at offset `off`, a read or a write. -/
abbrev HostAction.Accesses (act : HostAction) (off n : Nat) : Prop :=
  act = .read off n ∨ act = .readIfDone off n ∨ ∃ v, act = .write off n v

/-! The invariants. -/

/-- The flags and codes of STATUS agree (R26). -/
abbrev StatusAgrees (f : Status) : Prop :=
  (f.busy = true → f.done = false ∧ f.err = false ∧ f.fatal = false) ∧
  (f.done = true → f.err = false ∧ f.fatal = false) ∧
  (f.err = true → f.fatal = false) ∧
  (f.cause = .none ↔ f.err = false ∧ f.fatal = false) ∧
  (f.err = true → f.cause = .evenOperand ∨ f.cause = .malformedCommand) ∧
  (f.fatal = true → f.cause = .internalInvariant) ∧
  (f.stage ≠ 0 → f.cause = .internalInvariant)

/-- The phases in which a command is in progress (R33). -/
def Phase.active : Phase → Bool
  | .nop => true
  | .inv _ => true
  | .mul => true
  | .trunc => true
  | .idle => false
  | .halted => false

/-- BUSY and FATAL say what eng.phase says (R33). -/
abbrev PhaseAgrees (s : State) : Prop :=
  s.status.busy = s.phase.active ∧ s.status.fatal = decide (s.phase = .halted)

/-- Whether the latched values fit the command in progress (R32). -/
def latchesFit (s : State) : Bool :=
  match s.phase with
  | .inv i => decide (i ≤ updates s.engW ∧ s.engAW.toNat < 2 ^ s.engW.bits ∧ s.engX.toNat < 2 ^ s.engW.bits)
  | .mul => decide (s.engAW.toNat < 2 ^ s.engW.bits ∧ s.engBW.toNat < 2 ^ s.engW.bits)
  | .trunc => decide (s.engK ≤ 64)
  | .nop => true
  | .idle => true
  | .halted => true

/-- RESULT is invalid while INV, MULW or TRUNC is in progress and after any error (R29). -/
abbrev ResultAgrees (s : State) : Prop :=
  (s.status.busy = true → s.phase ≠ .nop → s.result = none) ∧
  (s.status.err = true → s.result = none) ∧
  (s.status.fatal = true → s.result = none)

/-- After a checkpoint failure STAGE is a checkpoint's number, or 15; 7 to 14 are not produced for any width (R24). -/
abbrev StageLegal (s : State) : Prop :=
  s.status.fatal = true → s.status.stage.toNat ≤ 6 ∨ s.status.stage = 15

/-- The machine's consistency: it holds at reset and every step keeps it, whatever the datapath computes. -/
abbrev Consistent (s : State) : Prop :=
  StatusAgrees s.status ∧ PhaseAgrees s ∧ latchesFit s = true ∧ ResultAgrees s ∧ StageLegal s

/-- Whether, in phase Inv(i), the operand is odd and eng.X passes checkpoint i (R125 to R127). -/
def checkpointHolds (s : State) : Bool :=
  match s.phase with
  | .inv i =>
    s.engAW.getLsbD 0 && decide (mask (threshold s.engW i) (mulMod s.engW s.engX.toNat s.engAW.toNat : Int) = 1)
  | .nop => true
  | .mul => true
  | .trunc => true
  | .idle => true
  | .halted => true

/-- The machine is consistent, its datapath is right so far and FATAL is 0 (R205). -/
abbrev Sound (s : State) : Prop := Consistent s ∧ checkpointHolds s = true ∧ s.status.fatal = false

end Sys2Proof.Machine
end

