-- ==== Sys2Proof/Certificates/Slice0/Obligations.lean ====
section
/-! DEFINITION. The statements for the provers, in the order of the spec's files; OBLIGATIONS.json says which rule each formalises. -/

open Sys2Proof Sys2Proof.Machine

/-! Encoding and decoding (30_encoding). -/

/-- R89: the table of mnemonics and CMD values, and each value decodes to its command. -/
def Obligations.MnemonicValues : Prop :=
  (mnemonicText .nop = "nop" ∧ encode .nop = 0x0000_0000 ∧ decode 0x0000_0000 = .ok .nop) ∧
  (mnemonicText .inv32 = "inv.32" ∧ encode .inv32 = 0x0000_0001 ∧ decode 0x0000_0001 = .ok .inv32) ∧
  (mnemonicText .inv64 = "inv.64" ∧ encode .inv64 = 0x0000_0011 ∧ decode 0x0000_0011 = .ok .inv64) ∧
  (mnemonicText .mulw32 = "mulw.32" ∧ encode .mulw32 = 0x0000_0002 ∧ decode 0x0000_0002 = .ok .mulw32) ∧
  (mnemonicText .mulw64 = "mulw.64" ∧ encode .mulw64 = 0x0000_0012 ∧ decode 0x0000_0012 = .ok .mulw64) ∧
  ∀ k : BitVec 7, k.toNat ≤ 64 →
    mnemonicText (.trunc k) = "trunc " ++ toString k.toNat ∧
    encode (.trunc k) = (0x0000_0003 : Word64) + (k.setWidth 64 <<< 8) ∧
    decode ((0x0000_0003 : Word64) + (k.setWidth 64 <<< 8)) = .ok (.trunc k)

/-- R86: a value spells a command exactly when it matches that command's row. -/
def Obligations.WellFormedRowsMatchExactly : Prop :=
  ∀ v : Word64,
    (decode v = .ok .nop ↔ v &&& 0xFFFF_FFFF_FFFF_FFFF = 0x0000_0000_0000_0000) ∧
    (decode v = .ok .inv32 ∨ decode v = .ok .inv64 ↔ v &&& 0xFFFF_FFFF_FFFF_FFEF = 0x0000_0000_0000_0001) ∧
    (decode v = .ok .mulw32 ∨ decode v = .ok .mulw64 ↔ v &&& 0xFFFF_FFFF_FFFF_FFEF = 0x0000_0000_0000_0002) ∧
    ((∃ k, decode v = .ok (.trunc k)) ↔
      v &&& 0xFFFF_FFFF_FFFF_80FF = 0x0000_0000_0000_0003 ∧ (v.extractLsb' 8 7).toNat ≤ 64) ∧
    (decode v = .ok .inv32 ↔ v = 0x0000_0001) ∧ (decode v = .ok .inv64 ↔ v = 0x0000_0011) ∧
    (decode v = .ok .mulw32 ↔ v = 0x0000_0002) ∧ (decode v = .ok .mulw64 ↔ v = 0x0000_0012) ∧
    (∀ k, decode v = .ok (.trunc k) → v = (0x3 : Word64) + (k.setWidth 64 <<< 8))

/-- R87, R202: which values are malformed, and what their acceptance records. -/
def Obligations.MalformedExactlyWhenNoRowMatches : Prop :=
  ∀ v : Word64,
    ((∀ i, decode v ≠ .ok i) ↔
      4 ≤ (v.extractLsb' 0 4).toNat ∨
      v.extractLsb' 32 32 ≠ 0 ∨ v.extractLsb' 15 17 ≠ 0 ∨ v.extractLsb' 5 3 ≠ 0 ∨
      (v.extractLsb' 4 1 = 1 ∧ (v.extractLsb' 0 4 = 0 ∨ v.extractLsb' 0 4 = 3)) ∨
      (v.extractLsb' 8 7 ≠ 0 ∧ (v.extractLsb' 0 4 = 0 ∨ v.extractLsb' 0 4 = 1 ∨ v.extractLsb' 0 4 = 2)) ∨
      (64 < (v.extractLsb' 8 7).toNat ∧ v.extractLsb' 0 4 = 3)) ∧
    ((∀ i, decode v ≠ .ok i) → ∀ s : State, Ready s →
      EndsAs (memWrite 0x00 8 v s) { s with status := Status.malformedError, result := none } ∧
      memRead 0x00 8 { s with status := Status.malformedError, result := none } = .next 0)

/-- Decoding an encoded well-formed command gives it back, and no other value spells it (R86, R88). -/
def Obligations.DecodeOfEncode : Prop :=
  ∀ i : Instr, i.wf = true →
    decode (encode i) = .ok i ∧ ∀ rest, decodeBytes (encodeBytes i ++ rest) = .ok (i, rest)

/-- A value that decodes to a command is that command's encoding, and the command is well formed (R86, R88). -/
def Obligations.EncodeOfDecode : Prop :=
  ∀ (v : Word64) (i : Instr), decode v = .ok i → i.wf = true ∧ encode i = v

/-- R83, R84: what WSEL and K select, read off the engine of the command in progress after acceptance. -/
def Obligations.WidthAndCountFields : Prop :=
  ∀ (s t : State) (v : Word64), Ready s → memWrite 0x00 8 v s = .next t →
    (∀ i, decode v = .ok i → v.extractLsb' 0 4 = 1 ∨ v.extractLsb' 0 4 = 2 → t.status.busy = true →
      (v.extractLsb' 4 1 = 0 → t.engW.bits = 32) ∧ (v.extractLsb' 4 1 = 1 → t.engW.bits = 64)) ∧
    (∀ i, decode v = .ok i → v.extractLsb' 0 4 = 3 →
      i = .trunc (v.extractLsb' 8 7) ∧ t.engK = (v.extractLsb' 8 7).toNat ∧ t.engK ≤ 64) ∧
    (v.extractLsb' 0 4 = 3 → 65 ≤ (v.extractLsb' 8 7).toNat → t.status = Status.malformedError)

/-! The step and reset (00_scope, 10_state, 70_reset_and_hazards). -/

/-- A step in which the host writes a decodable value to CMD is exec of the command, on the state with that action taken
off the host's program and the turn off the schedule; program and schedule, and the operand value 1 of withFetchWord, are
the model's (logs 4 and 5). -/
def Obligations.StepRunsDecodedCommand : Prop :=
  (∀ (s : State) (v : Word64) (i : Instr) (p : List HostAction), decode v = .ok i →
    s.program = .write 0x00 8 v :: p →
    (∀ q, s.schedule = { agent := .host, reset := false } :: q →
      step s = exec i { s with program := p, schedule := q }) ∧
    (s.schedule = [] → s.status.busy = false → step s = exec i { s with program := p })) ∧
  (∀ (s : State) (n w : Nat) (i : Instr), decodeTableWord n w = some i →
    step (s.withFetchWord n w) =
      exec i { s with operandA := some (s.operandA.getD 1), operandB := some (s.operandB.getD 1) })

/-- Every step is the move the schedule and the agents' enabledness give; the passing turns and the order with no choice
left are the model's (log 4). -/
def Obligations.StepTakesTheScheduledMove : Prop :=
  ∀ s : State,
    match moveOf s with
    | .engine => s.status.busy = true ∧ step s = engineStep { s with schedule := s.schedule.tail }
    | .host act =>
      s.program = act :: s.program.tail ∧
        step s = hostAction act { s with schedule := s.schedule.tail, program := s.program.tail }
    | .reset => ∃ r q, s.schedule = r :: q ∧ step s = .next (resetBlock { s with schedule := { r with reset := false } :: q })
    | .pass => step s = .next { s with schedule := s.schedule.tail }
    | .stuck => step s = .fault .stuck

/-- R37: the reset value of every piece of state the table gives a value. -/
def Obligations.ResetValues : Prop :=
  State.reset.status.toWord = 0 ∧ State.reset.status = Status.zero ∧
  memRead 0x00 8 State.reset = .next 0 ∧
  State.reset.operandA = none ∧ State.reset.operandB = none ∧ State.reset.result = none ∧
  State.reset.phase = .idle

/-- R240: the effect of reset, and that nothing else leaves Halted. -/
def Obligations.ResetEffectAndOnlyExit : Prop :=
  (∀ s : State, ∃ t, hostAction .reset s = .next t ∧
    t.status = Status.zero ∧ t.status.toWord = 0 ∧ t.operandA = none ∧ t.operandB = none ∧ t.result = none ∧
    t.phase = .idle) ∧
  (∀ s t : State, Consistent s → s.phase = .halted → step s = .next t →
    (t.phase = .halted ∧ t.status = s.status) ∨ moveOf s = .reset ∨ moveOf s = .host .reset)

/-- An asserted reset input comes before the turn it coincides with and abandons the command in progress (R241); the turn
that carries it is the model's (log 14), and the agents' own fields stay (logs 4 to 6). -/
def Obligations.ResetComesFirstAndAbandons : Prop :=
  ∀ (s : State) (r : Turn) (q : List Turn), s.schedule = r :: q → r.reset = true →
    ∃ t, step s = .next t ∧
      t.result = none ∧ t.status = Status.zero ∧ t.phase = .idle ∧ t.operandA = none ∧ t.operandB = none ∧
      t.schedule = { agent := r.agent, reset := false } :: q ∧ t.program = s.program ∧ t.busData = s.busData

/-! The register window (20_memory). -/

/-- R53: byte j of a register lies at BASE + off + j and holds its bits [8j+7 : 8j]. -/
def Obligations.ByteLanesLittleEndian : Prop :=
  ∀ (r : Reg) (j : Nat), j < 8 →
    byteAddress r.offset j = Config.base + r.offset + j ∧
    (∀ (v : Word64) (b : Nat), b < 8 → (byteLane v j).getLsbD b = v.getLsbD (8 * j + b)) ∧
    (∀ v : Word64, (bytesOf v)[j]? = some (byteLane v j)) ∧
    Config.base % 0x40 = 0 ∧ byteAddress r.offset j < Config.base + 0x40 ∧
    (∀ (r' : Reg) (j' : Nat), j' < 8 → byteAddress r.offset j = byteAddress r'.offset j' → r = r' ∧ j = j')

/-- R54: what a read of each register returns; it answers a value alone, so it has no side effect. -/
def Obligations.ReadsOfTheWindow : Prop :=
  ∀ s : State,
    memRead 0x00 8 s = .next 0 ∧
    memRead 0x08 8 s = .next s.status.toWord ∧
    (∀ a, s.operandA = some a → memRead 0x10 8 s = .next a) ∧
    (s.operandA = none → memRead 0x10 8 s = .fault .readUnwritten) ∧
    (∀ b, s.operandB = some b → memRead 0x18 8 s = .next b) ∧
    (s.operandB = none → memRead 0x18 8 s = .fault .readUnwritten) ∧
    (∀ v, s.result = some v → memRead 0x20 8 s = .next v) ∧
    (s.result = none → memRead 0x20 8 s = .fault .readInvalidResult)

/-- R51: an access of any size to a reserved offset is refused. -/
def Obligations.ReservedOffsetsRefused : Prop :=
  ∀ (s : State) (off n : Nat) (v : Word64), off = 0x28 ∨ off = 0x30 ∨ off = 0x38 →
    memRead off n s = .refused .reservedOffset ∧ memWrite off n v s = .refused .reservedOffset

/-- R52 on the offsets R51 does not name (log 12), and the offsets outside the window (log 9). -/
def Obligations.NarrowOrMisalignedRefused : Prop :=
  ∀ (s : State) (off n : Nat) (v : Word64), off ≠ 0x28 → off ≠ 0x30 → off ≠ 0x38 →
    (n ≠ 8 ∨ off % 8 ≠ 0 →
      memRead off n s = .refused .narrowOrMisalignedAccess ∧ memWrite off n v s = .refused .narrowOrMisalignedAccess) ∧
    (n = 8 → off % 8 = 0 → 0x40 ≤ off →
      memRead off n s = .fault .outsideWindow ∧ memWrite off n v s = .fault .outsideWindow)

/-- R55: the cases of a host write, the first that applies. -/
def Obligations.WritesOfTheWindow : Prop :=
  ∀ (s : State) (off : Nat) (v : Word64),
    (s.status.busy = true → off = 0x00 ∨ off = 0x10 ∨ off = 0x18 →
      memWrite off 8 v s = .refused .hostWriteWhileBusy) ∧
    (s.status.busy = false → s.status.fatal = true → off = 0x00 ∨ off = 0x10 ∨ off = 0x18 →
      memWrite off 8 v s = .next s) ∧
    (Ready s → off = 0x00 → memWrite off 8 v s = acceptWord v s) ∧
    (Ready s → off = 0x10 → memWrite off 8 v s = .next { s with operandA := some v }) ∧
    (Ready s → off = 0x18 → memWrite off 8 v s = .next { s with operandB := some v }) ∧
    (off = 0x08 ∨ off = 0x20 → memWrite off 8 v s = .next s)

/-- While BUSY = 1 the three writes are refused, and reads and the other writes stay admitted (R57, R250); RESULT is left out
for a NOP in progress (log 13). -/
def Obligations.BusyRefusesWrites : Prop :=
  ∀ (s : State) (v : Word64), s.status.busy = true →
    memWrite 0x00 8 v s = .refused .hostWriteWhileBusy ∧
    memWrite 0x10 8 v s = .refused .hostWriteWhileBusy ∧
    memWrite 0x18 8 v s = .refused .hostWriteWhileBusy ∧
    memWrite 0x08 8 v s = .next s ∧ memWrite 0x20 8 v s = .next s ∧
    memRead 0x00 8 s = .next 0 ∧ memRead 0x08 8 s = .next s.status.toWord ∧
    (Consistent s → s.phase ≠ .nop → memRead 0x20 8 s = .fault .readInvalidResult)

/-- R58: while FATAL = 1 a write to CMD, OPERAND_A or OPERAND_B has no effect on any state, and reads remain. -/
def Obligations.FatalBlocksWrites : Prop :=
  ∀ (s : State) (v : Word64), Consistent s → s.status.fatal = true →
    memWrite 0x00 8 v s = .next s ∧ memWrite 0x10 8 v s = .next s ∧ memWrite 0x18 8 v s = .next s ∧
    memRead 0x00 8 s = .next 0 ∧ memRead 0x08 8 s = .next s.status.toWord ∧
    (∀ a, s.operandA = some a → memRead 0x10 8 s = .next a) ∧
    (s.operandA = none → memRead 0x10 8 s = .fault .readUnwritten) ∧
    (∀ b, s.operandB = some b → memRead 0x18 8 s = .next b) ∧
    (s.operandB = none → memRead 0x18 8 s = .fault .readUnwritten) ∧
    memRead 0x20 8 s = .fault .readInvalidResult

/-- A host read, `wait` or conditional read changes no state of the block (R25, R54, R56), only the host's own fields (logs 5
and 6). -/
def Obligations.HostReadsDoNotDisturb : Prop :=
  ∀ (s t : State) (act : HostAction), hostAction act s = .next t →
    (∀ off n v, act ≠ .write off n v) → act ≠ .reset →
    t = { s with busData := t.busData, program := t.program }

/-- One `wait` reads STATUS and stands again while BUSY was read as 1 (R90; the host's fields are the model's, logs 5 and 6). -/
def Obligations.WaitPollsStatus : Prop :=
  ∀ s : State,
    (s.status.busy = true →
      hostAction .wait s = .next { s with busData := some s.status.toWord, program := .wait :: s.program }) ∧
    (s.status.busy = false → hostAction .wait s = .next { s with busData := some s.status.toWord })

/-! Acceptance and the engine step (40_command_dispatch). -/

/-- R100: when acceptance happens. -/
def Obligations.AcceptanceGate : Prop :=
  ∀ (s : State) (v : Word64),
    (s.status.busy = true → memWrite 0x00 8 v s = .refused .hostWriteWhileBusy) ∧
    (s.status.busy = false → s.status.fatal = true → memWrite 0x00 8 v s = .next s) ∧
    (Ready s →
      memWrite 0x00 8 v s = .fault .operandUnwritten ∨
      ∃ t, memWrite 0x00 8 v s = .next t ∧
        (t.status = Status.inProgress ∨ t.status = Status.evenOperandError ∨ t.status = Status.malformedError))

/-- R101: the acceptance pseudocode, arm by arm; where it ends in an error no command is in progress, and the engine's
registers are unspecified (R32). -/
def Obligations.AcceptancePseudocode : Prop :=
  ∀ (s : State) (v : Word64), Ready s →
    ((∀ i, decode v ≠ .ok i) →
      EndsAs (memWrite 0x00 8 v s) { s with status := Status.malformedError, result := none }) ∧
    (decode v = .ok .nop → memWrite 0x00 8 v s = .next { s with status := Status.inProgress, phase := .nop }) ∧
    (∀ W, decode v = .ok (invOf W) →
      (s.operandA = none → memWrite 0x00 8 v s = .fault .operandUnwritten) ∧
      (∀ a, s.operandA = some a → (a.toNat % 2 ^ W.bits) % 2 = 0 →
        EndsAs (memWrite 0x00 8 v s) { s with status := Status.evenOperandError, result := none }) ∧
      (∀ a, s.operandA = some a → (a.toNat % 2 ^ W.bits) % 2 = 1 →
        memWrite 0x00 8 v s = .next { s with
          status := Status.inProgress, result := none, engW := W,
          engAW := BitVec.ofNat 64 (a.toNat % 2 ^ W.bits), engX := BitVec.ofNat 64 (a.toNat % 2 ^ W.bits),
          phase := .inv 0 })) ∧
    (∀ W, decode v = .ok (mulwOf W) →
      (s.operandA = none ∨ s.operandB = none → memWrite 0x00 8 v s = .fault .operandUnwritten) ∧
      (∀ a b, s.operandA = some a → s.operandB = some b →
        memWrite 0x00 8 v s = .next { s with
          status := Status.inProgress, result := none, engW := W,
          engAW := BitVec.ofNat 64 (a.toNat % 2 ^ W.bits), engBW := BitVec.ofNat 64 (b.toNat % 2 ^ W.bits),
          phase := .mul })) ∧
    (∀ k, decode v = .ok (.trunc k) →
      (s.operandA = none → memWrite 0x00 8 v s = .fault .operandUnwritten) ∧
      (∀ a, s.operandA = some a →
        memWrite 0x00 8 v s = .next { s with
          status := Status.inProgress, result := none, engK := k.toNat, engAW := a, phase := .trunc }))

/-- R103: a malformed value raises MALFORMED_COMMAND whatever the operand registers hold, and nothing else. -/
def Obligations.DecodeBeforeOperands : Prop :=
  ∀ (s : State) (v : Word64) (A B : Option Word64), Ready s → (∀ i, decode v ≠ .ok i) →
    ∃ t, memWrite 0x00 8 v { s with operandA := A, operandB := B } = .next t ∧
      t.status.err = true ∧ t.status.cause = .malformedCommand ∧
      EndsAs (.next t) { s with operandA := A, operandB := B, status := Status.malformedError, result := none }

/-- R104: an InvalidInputError is complete at acceptance. -/
def Obligations.InvalidInputEndsAtAcceptance : Prop :=
  ∀ (s t : State) (v : Word64), Consistent s → Ready s → memWrite 0x00 8 v s = .next t → t.status.err = true →
    t.status.busy = false ∧ t.phase = .idle ∧ (∀ u, engineStep t ≠ .next u) ∧ moveOf t ≠ .engine ∧
    t.operandA = s.operandA ∧ t.operandB = s.operandB

/-- R105: the engine has an enabled step exactly when BUSY = 1. -/
def Obligations.EngineEnabledExactlyWhenBusy : Prop :=
  ∀ s : State, Consistent s →
    ((∃ t, engineStep s = .next t) ↔ s.status.busy = true) ∧
    (s.phase = .idle ∨ s.phase = .halted → ∀ t, engineStep s ≠ .next t)

/-- What an engine step leaves unchanged: both operand registers and everything of the agents; while the command stays in
progress also STATUS, RESULT and every latched value but eng.X (R32, R106). -/
def Obligations.EngineStepFrame : Prop :=
  ∀ s t : State, engineStep s = .next t →
    t.operandA = s.operandA ∧ t.operandB = s.operandB ∧
    t.program = s.program ∧ t.schedule = s.schedule ∧ t.busData = s.busData ∧
    (t.status.busy = true → t.status = s.status ∧ t.result = s.result ∧
      t.engW = s.engW ∧ t.engAW = s.engAW ∧ t.engBW = s.engBW ∧ t.engK = s.engK)

/-- After acceptance the operand registers and RESULT do not reach the engine: with any other contents in their place the
engine takes the same step (R102, R106). -/
def Obligations.EngineReadsOnlyLatches : Prop :=
  ∀ (s t : State) (A B : Option Word64), engineStep s = .next t →
    engineStep { s with operandA := A, operandB := B } = .next { t with operandA := A, operandB := B } ∧
    ∀ R, ∃ u, engineStep { s with result := R } = .next u ∧ u.status = t.status ∧ u.phase = t.phase ∧ u.engX = t.engX

/-- R108: NOP. -/
def Obligations.NopAcceptsAndCompletes : Prop :=
  encode .nop = 0x0000_0000_0000_0000 ∧ decode 0x0000_0000_0000_0000 = .ok .nop ∧
  (∀ s : State, Ready s →
    exec .nop s = .next { s with status := Status.inProgress, phase := .nop } ∧
    EndsAs (engineStep { s with status := Status.inProgress, phase := .nop })
      { s with status := Status.succeeded, phase := .idle }) ∧
  (∀ s : State, s.status.busy = false → s.status.fatal = true → memWrite 0x00 8 (encode .nop) s = .next s) ∧
  (∀ (s : State) (v : Word64), Ready s → v.extractLsb' 0 4 = 0 → v ≠ 0 →
    EndsAs (memWrite 0x00 8 v s) { s with status := Status.malformedError, result := none }) ∧
  Status.evenOperandError.toWord = 0x14 ∧ Status.succeeded.toWord = 0x02

/-- The phases of INV come in the fixed order Inv(0) to Inv(N(W)), then Idle; only a failed checkpoint, or a failed final
check at i = N(W), departs from it, to Halted (R109, R122). -/
def Obligations.InvPhasesInOrder : Prop :=
  ∀ (s t : State) (i : Nat), Consistent s → s.phase = .inv i → engineStep s = .next t →
    (mask (threshold s.engW i) (mulMod s.engW s.engX.toNat s.engAW.toNat : Int) = 1 ∧ i < updates s.engW ∧
      t.phase = .inv (i + 1) ∧ t.status = s.status) ∨
    (mask (threshold s.engW i) (mulMod s.engW s.engX.toNat s.engAW.toNat : Int) = 1 ∧ i = updates s.engW ∧
      (mulMod s.engW s.engX.toNat s.engAW.toNat = 1 ∧ s.engX.toNat % 2 = 1) ∧
      t.phase = .idle ∧ t.status = Status.succeeded) ∨
    ((mask (threshold s.engW i) (mulMod s.engW s.engX.toNat s.engAW.toNat : Int) ≠ 1 ∨
        i = updates s.engW ∧ ¬(mulMod s.engW s.engX.toNat s.engAW.toNat = 1 ∧ s.engX.toNat % 2 = 1)) ∧
      t.phase = .halted ∧ t.status.fatal = true ∧ t.status.cause = .internalInvariant)

/-- A command in progress ends within the engine steps its phase has left, by completion or by a failed check (R110). -/
def Obligations.CommandEndsWithinBound : Prop :=
  ∀ s : State, Consistent s → s.status.busy = true →
    ∃ t, settle (match s.phase with | .inv i => updates s.engW + 1 - i | _ => 1) s = .next t ∧
      t.status.busy = false ∧ (t.status.done = true ∨ t.status.fatal = true) ∧
      (match s.phase with | .inv i => updates s.engW + 1 - i | _ => 1) ≤ 7

/-! INV (41_inverse_engine). -/

/-- The exact-integer form, the wrapping datapath and the product form of the update agree (R121). -/
def Obligations.UpdateFormsAgree : Prop :=
  ∀ (W : Width) (a x : Nat),
    (upd a x W : Int) = ((x : Int) + x - a * x * x) % ((2 ^ W.bits : Nat) : Int) ∧
    upd a x W = mulMod W x (mask W.bits (2 - (mulMod W a x : Int))) ∧
    BitVec.ofNat W.bits (upd a x W) =
      BitVec.ofNat W.bits x + BitVec.ofNat W.bits x -
        BitVec.ofNat W.bits a * BitVec.ofNat W.bits x * BitVec.ofNat W.bits x

/-- R122: INV's encoding, acceptance, engine step and example. The arm of stage 15 stands as the rule has it; no state takes
it, since checkpoint N(W) is made modulo 2^W already (R127). -/
def Obligations.InvFollowsItsRule : Prop :=
  encode (invOf .w32) = 0x0000_0001 ∧ encode (invOf .w64) = 0x0000_0011 ∧
  (∀ (W : Width) (s : State) (a : Word64), Ready s → s.operandA = some a →
    (a.toNat % 2 = 0 →
      EndsAs (exec (invOf W) s) { s with status := Status.evenOperandError, result := none }) ∧
    (a.toNat % 2 = 1 →
      exec (invOf W) s = .next { s with
        status := Status.inProgress, result := none, engW := W,
        engAW := BitVec.ofNat 64 (a.toNat % 2 ^ W.bits), engX := BitVec.ofNat 64 (a.toNat % 2 ^ W.bits),
        phase := .inv 0 })) ∧
  (∀ (W : Width) (N : Nat) (s : State) (i a x : Nat), s.phase = .inv i → s.engW = W →
    (W.bits = 32 → N = 4) → (W.bits = 64 → N = 6) → s.engAW.toNat = a → s.engX.toNat = x →
    (x * a % 2 ^ W.bits % 2 ^ min (3 * 2 ^ i) W.bits = 1 → i < N →
      engineStep s = .next { s with engX := BitVec.ofNat 64 (upd a x W), phase := .inv (i + 1) }) ∧
    (x * a % 2 ^ W.bits % 2 ^ min (3 * 2 ^ i) W.bits ≠ 1 ∨ N ≤ i →
      EndsAs (engineStep s)
        (if x * a % 2 ^ W.bits % 2 ^ min (3 * 2 ^ i) W.bits ≠ 1 then
          { s with
            status := { s.status with busy := false, fatal := true, cause := .internalInvariant, stage := BitVec.ofNat 4 i }
            result := none
            phase := .halted }
        else if x * a % 2 ^ W.bits ≠ 1 ∨ x % 2 ≠ 1 then
          { s with
            status := { s.status with busy := false, fatal := true, cause := .internalInvariant, stage := 15 }
            result := none
            phase := .halted }
        else
          { s with
            status := { s.status with busy := false, done := true }
            result := some (BitVec.ofNat 64 x)
            phase := .idle }))) ∧
  (∀ s : State, Ready s → s.operandA = some 3 →
    ∃ t, runCommand .inv64 s = .next t ∧ t.result = some 0xAAAA_AAAA_AAAA_AAAB)

/-- INV of an odd operand is accepted and completes with x_N, zero-extended; the operand registers are unchanged (R124). That
it takes N(W) + 1 engine steps is the reference decomposition (R107, log 7). -/
def Obligations.InvResult : Prop :=
  ∀ (W : Width) (s : State) (a : Word64), Ready s → s.operandA = some a → a.toNat % 2 = 1 →
    ∃ t, exec (invOf W) s = .next t ∧
      EndsAs (settle (updates W + 1) t) { s with
        status := Status.succeeded
        result := some (BitVec.ofNat 64 (approx (a.toNat % 2 ^ W.bits) W (updates W)))
        phase := .idle } ∧
      approx (a.toNat % 2 ^ W.bits) W (updates W) < 2 ^ W.bits ∧
      (W = .w32 → (BitVec.ofNat 64 (approx (a.toNat % 2 ^ W.bits) W (updates W))).extractLsb' 32 32 = 0)

/-- An accepted INV passes checkpoint 0: the square of an odd number is 1 modulo 8 (R125). -/
def Obligations.InitialPrecision : Prop :=
  (∀ a : Nat, a % 2 = 1 → a * a % 8 = 1) ∧
  ∀ (W : Width) (s : State) (a : Word64), Ready s → s.operandA = some a → a.toNat % 2 = 1 →
    ∃ t, exec (invOf W) s = .next t ∧ t.phase = .inv 0 ∧
      mask (threshold t.engW 0) (mulMod t.engW t.engX.toNat t.engAW.toNat : Int) = 1

/-- One update doubles the precision, up to W (R126). -/
def Obligations.PrecisionDoubles : Prop :=
  ∀ (W : Width) (a x k : Nat), a % 2 = 1 → x < 2 ^ W.bits → k ≤ W.bits → a * x % 2 ^ k = 1 →
    a * upd a x W % 2 ^ min (2 * k) W.bits = 1

/-- For every odd operand every checkpoint and the final check pass, and the thresholds are tight for a = 3 (R127). -/
def Obligations.NoCheckpointFails : Prop :=
  (∀ (W : Width) (a : Nat), a < 2 ^ W.bits → a % 2 = 1 →
    (∀ i, i ≤ updates W → mask (threshold W i) (mulMod W (approx a W i) a : Int) = 1) ∧
    mulMod W (approx a W (updates W)) a = 1 ∧ approx a W (updates W) % 2 = 1) ∧
  (∀ (W : Width) (i : Nat), i ≤ updates W → 3 * 2 ^ i < W.bits →
    mask (3 * 2 ^ i) (mulMod W (approx 3 W i) 3 : Int) = 1 ∧
    mask (3 * 2 ^ i + 1) (mulMod W (approx 3 W i) 3 : Int) ≠ 1)

/-- RESULT after INV is the one inverse of the truncated operand modulo 2^W, is odd, and is a fixed point of the update (R128). -/
def Obligations.InverseUniqueAndReturned : Prop :=
  ∀ (W : Width) (s : State) (a : Word64), Ready s → s.operandA = some a → a.toNat % 2 = 1 →
    ∃ t x, runCommand (invOf W) s = .next t ∧ t.status = Status.succeeded ∧ t.result = some x ∧
      x.toNat < 2 ^ W.bits ∧ a.toNat * x.toNat % 2 ^ W.bits = 1 ∧ x.toNat % 2 = 1 ∧
      (∀ y, y < 2 ^ W.bits → a.toNat * y % 2 ^ W.bits = 1 → y = x.toNat) ∧
      upd (a.toNat % 2 ^ W.bits) x.toNat W = x.toNat

/-- INV.32 of an operand is the low half of INV.64 of the same operand (R129). -/
def Obligations.WidthsAgree : Prop :=
  ∀ (s s' : State) (a : Word64), Ready s → Ready s' → s.operandA = some a → s'.operandA = some a → a.toNat % 2 = 1 →
    ∃ t t' x x', runCommand .inv32 s = .next t ∧ t.result = some x ∧
      runCommand .inv64 s' = .next t' ∧ t'.result = some x' ∧ x.toNat = x'.toNat % 2 ^ 32

/-- R130: the corner cases of INV. -/
def Obligations.InvCornerCases : Prop :=
  ∀ (W : Width) (s : State) (a : Word64), Ready s → s.operandA = some a →
    (a = 1 → ∃ t, runCommand (invOf W) s = .next t ∧ t.result = some 1) ∧
    (a.toNat % 2 ^ W.bits = 2 ^ W.bits - 1 →
      ∃ t, runCommand (invOf W) s = .next t ∧ t.result = some (BitVec.ofNat 64 (2 ^ W.bits - 1))) ∧
    (a.toNat % 2 = 0 →
      ∃ t, exec (invOf W) s = .next t ∧ t.status = Status.evenOperandError ∧ t.result = none) ∧
    ((a.toNat % 2 ^ W.bits) % 2 = a.toNat % 2) ∧
    (∀ a' : Word64, a'.toNat % 2 ^ W.bits = a.toNat % 2 ^ W.bits → a.toNat % 2 = 1 →
      ∃ t u, runCommand (invOf W) s = .next t ∧ runCommand (invOf W) { s with operandA := some a' } = .next u ∧
        u.result = t.result) ∧
    (a.toNat % 2 = 1 →
      ∃ t u, runCommand (invOf W) s = .next t ∧ t.operandA = some a ∧ runCommand (invOf W) t = .next u ∧
        u.result = t.result)

/-! The two sub-units and their commands (42_fixed_width_multiplier, 43_mask_and_truncate). -/

/-- MASK_k is the floor modulus and MUL_W the low W bits of the product (R150, R170). -/
def Obligations.SubUnitsCompute : Prop :=
  (∀ (k : Nat) (v : Int), mask k v < 2 ^ k ∧ ∃ q : Int, v = q * ((2 ^ k : Nat) : Int) + (mask k v : Int)) ∧
  (∀ v : Int, mask 0 v = 0) ∧
  (∀ v : Word64, mask 64 (v.toNat : Int) = v.toNat) ∧
  (∀ k n : Nat, mask k (n : Int) = n &&& (2 ^ k - 1)) ∧
  (∀ p q : Word64, mask 64 ((p.toNat : Int) - (q.toNat : Int)) = (p - q).toNat) ∧
  (∀ (W : Width) (p q : Nat), mulMod W p q = p * q % 2 ^ W.bits ∧ mulMod W p q < 2 ^ W.bits ∧
    mulMod W p q = mulMod W (p % 2 ^ W.bits) (q % 2 ^ W.bits))

/-- R151, R152: MULW's encoding, acceptance, engine step and example. -/
def Obligations.MulwFollowsItsRule : Prop :=
  encode (mulwOf .w32) = 0x0000_0002 ∧ encode (mulwOf .w64) = 0x0000_0012 ∧
  (∀ (W : Width) (s : State), Ready s → s.operandA = none ∨ s.operandB = none →
    exec (mulwOf W) s = .fault .operandUnwritten) ∧
  (∀ (W : Width) (s : State) (a b : Word64), Ready s → s.operandA = some a → s.operandB = some b →
    ∃ t, t = { s with
        status := Status.inProgress, result := none, engW := W,
        engAW := BitVec.ofNat 64 (a.toNat % 2 ^ W.bits), engBW := BitVec.ofNat 64 (b.toNat % 2 ^ W.bits),
        phase := .mul } ∧
      exec (mulwOf W) s = .next t ∧
      EndsAs (engineStep t) { t with
        status := Status.succeeded
        result := some (BitVec.ofNat 64 (a.toNat * b.toNat % 2 ^ W.bits))
        phase := .idle } ∧
      (W = .w32 → (BitVec.ofNat 64 (a.toNat * b.toNat % 2 ^ W.bits)).extractLsb' 32 32 = 0)) ∧
  (∀ s : State, Ready s → s.operandA = some 3 → s.operandB = some 0xAAAA_AAAA_AAAA_AAAB →
    ∃ t, runCommand .mulw64 s = .next t ∧ t.result = some 1)

/-- The corner cases of MULW (R153). -/
def Obligations.MulwCornerCases : Prop :=
  ∀ (W : Width) (s : State) (a b : Word64), Ready s → s.operandA = some a → s.operandB = some b →
    ∃ t r, runCommand (mulwOf W) s = .next t ∧ t.result = some r ∧ t.operandA = some a ∧ t.operandB = some b ∧
      (a = 0 ∨ b = 0 → r = 0) ∧
      (W = .w32 → a = 0x1_0000 → b = 0x1_0000 → r = 0) ∧
      (a.toNat % 2 ^ W.bits = 2 ^ W.bits - 1 → b.toNat % 2 ^ W.bits = 2 ^ W.bits - 1 → r = 1) ∧
      (r.toNat = (a.toNat % 2 ^ W.bits) * (b.toNat % 2 ^ W.bits) % 2 ^ W.bits) ∧
      (∃ u, runCommand (mulwOf W) { s with operandA := some b, operandB := some a } = .next u ∧ u.result = some r)

/-- MULW of an odd operand and its INV result gives 1 (R154). -/
def Obligations.ProductCheck : Prop :=
  ∀ (W : Width) (s : State) (a : Word64), Ready s → s.operandA = some a → a.toNat % 2 = 1 →
    ∃ t x t' u, runCommand (invOf W) s = .next t ∧ memRead 0x20 8 t = .next x ∧
      memWrite 0x18 8 x t = .next t' ∧ runCommand (mulwOf W) t' = .next u ∧ memRead 0x20 8 u = .next 1

/-- R171, R172: TRUNC's encoding, acceptance, engine step and example. -/
def Obligations.TruncFollowsItsRule : Prop :=
  (∀ k : BitVec 7, k.toNat ≤ 64 → encode (.trunc k) = (0x0000_0003 : Word64) + (k.setWidth 64 <<< 8)) ∧
  (∀ (k : BitVec 7) (s : State), Ready s → s.operandA = none → exec (.trunc k) s = .fault .operandUnwritten) ∧
  (∀ (s : State) (v : Word64), Ready s → v.extractLsb' 0 4 = 3 → 64 < (v.extractLsb' 8 7).toNat →
    EndsAs (memWrite 0x00 8 v s) { s with status := Status.malformedError, result := none }) ∧
  (∀ (k : BitVec 7) (s : State) (a : Word64), k.toNat ≤ 64 → Ready s → s.operandA = some a →
    ∃ t, t = { s with
        status := Status.inProgress, result := none, engK := k.toNat, engAW := a, phase := .trunc } ∧
      exec (.trunc k) s = .next t ∧
      EndsAs (engineStep t) { t with
        status := Status.succeeded
        result := some (BitVec.ofNat 64 (a.toNat % 2 ^ k.toNat))
        phase := .idle }) ∧
  (∀ s : State, Ready s → s.operandA = some 0x1_2345_6789 →
    ∃ t, runCommand (.trunc 32) s = .next t ∧ t.result = some 0x2345_6789)

/-- The corner cases of TRUNC (R173). -/
def Obligations.TruncCornerCases : Prop :=
  ∀ (k : BitVec 7) (s : State) (a : Word64), k.toNat ≤ 64 → Ready s → s.operandA = some a →
    ∃ t r, runCommand (.trunc k) s = .next t ∧ t.result = some r ∧
      t.operandA = some a ∧ t.operandB = s.operandB ∧
      (k = 0 → r = 0) ∧ (k = 64 → r = a) ∧ (k = 1 → r.toNat = a.toNat % 2) ∧
      (∀ j, k.toNat ≤ j → r.getLsbD j = false) ∧ (∀ j, j < k.toNat → r.getLsbD j = a.getLsbD j)

/-! Errors (60_exceptions). -/

/-- R201: EVEN_OPERAND is raised by INV of an even operand, and by nothing else. -/
def Obligations.EvenOperandOnlyFromInv : Prop :=
  (∀ (W : Width) (s : State) (a : Word64), Ready s → s.operandA = some a → (a.toNat % 2 ^ W.bits) % 2 = 0 →
    ∃ t, exec (invOf W) s = .next t ∧ t.status.err = true ∧ t.status.cause = .evenOperand ∧ t.status.stage = 0 ∧
      t.operandA = some a) ∧
  (∀ (W : Width) (a : Word64), (a.toNat % 2 ^ W.bits) % 2 = a.toNat % 2) ∧
  (∀ (i : Instr) (s t : State), Ready s → exec i s = .next t → t.status.cause = .evenOperand →
    (∃ W, i = invOf W) ∧ ∃ a, s.operandA = some a ∧ a.toNat % 2 = 0)

/-- R204: what a failed check reports, and that only the INV engine step reports one. -/
def Obligations.InvariantViolationReport : Prop :=
  (∀ (s : State) (i : Nat), s.phase = .inv i →
    (mask (threshold s.engW i) (mulMod s.engW s.engX.toNat s.engAW.toNat : Int) ≠ 1 →
      EndsAs (engineStep s) { s with
        status := { s.status with busy := false, fatal := true, cause := .internalInvariant, stage := BitVec.ofNat 4 i }
        result := none
        phase := .halted })) ∧
  (∀ (s : State) (g : BitVec 4), EndsAs (.next (raiseInternalInvariant g s)) { s with
    status := { s.status with busy := false, fatal := true, cause := .internalInvariant, stage := g }
    result := none
    phase := .halted }) ∧
  (∀ s t : State, step s = .next t → s.status.fatal = false → t.status.fatal = true →
    moveOf s = .engine ∧ (∃ i, s.phase = .inv i) ∧ t.phase = .halted ∧ t.result = none ∧
      (Consistent s → t.status.stage.toNat ≤ updates s.engW ∨ t.status.stage = 15))

/-- R208: the order of the reports of one acceptance, and of one engine step. -/
def Obligations.ReportPriority : Prop :=
  (∀ (s : State) (v : Word64), Ready s → (∀ i, decode v ≠ .ok i) → s.operandA = none → s.operandB = none →
    ∃ t, memWrite 0x00 8 v s = .next t ∧ t.status = Status.malformedError) ∧
  (∀ (W : Width) (s : State), Ready s → s.operandA = none → exec (invOf W) s = .fault .operandUnwritten) ∧
  (∀ (W : Width) (s : State) (a : Word64), Ready s → s.operandA = some a → a.toNat % 2 = 0 →
    ∃ t, exec (invOf W) s = .next t ∧ t.status = Status.evenOperandError) ∧
  (∀ (s : State) (i : Nat), s.phase = .inv i → i = updates s.engW →
    mask (threshold s.engW i) (mulMod s.engW s.engX.toNat s.engAW.toNat : Int) ≠ 1 →
    mulMod s.engW s.engX.toNat s.engAW.toNat ≠ 1 ∨ s.engX.toNat % 2 ≠ 1 →
    ∃ t, engineStep s = .next t ∧ t.status.stage = BitVec.ofNat 4 (updates s.engW) ∧ t.status.stage ≠ 15)

/-- Acceptance leaves no trace of an earlier ERR, CAUSE, STAGE or DONE: it answers the same from any of them (R211, R252). -/
def Obligations.AcceptanceErasesStatus : Prop :=
  ∀ (s : State) (f : Status) (v : Word64), Ready s → f.busy = false → f.fatal = false →
    memWrite 0x00 8 v { s with status := f } = memWrite 0x00 8 v s

/-! Whole-machine rules (10_state). -/

/-- The bits of STATUS as a host reads it, with the four codes of CAUSE (R24), and the words STATUS takes. -/
def Obligations.StatusLayout : Prop :=
  (∀ f : Status,
    f.toWord.getLsbD 0 = f.busy ∧ f.toWord.getLsbD 1 = f.done ∧ f.toWord.getLsbD 2 = f.err ∧
    f.toWord.getLsbD 3 = f.fatal ∧
    (f.cause = .none → f.toWord.extractLsb' 4 4 = 0) ∧
    (f.cause = .evenOperand → f.toWord.extractLsb' 4 4 = 1) ∧
    (f.cause = .malformedCommand → f.toWord.extractLsb' 4 4 = 2) ∧
    (f.cause = .internalInvariant → f.toWord.extractLsb' 4 4 = 3) ∧
    f.toWord.extractLsb' 8 4 = f.stage ∧ f.toWord.extractLsb' 12 52 = 0) ∧
  (Status.zero.toWord = 0x00 ∧ Status.inProgress.toWord = 0x01 ∧ Status.succeeded.toWord = 0x02 ∧
    Status.evenOperandError.toWord = 0x14 ∧ Status.malformedError.toWord = 0x24 ∧
    ∀ g : BitVec 4, (Status.inProgress.violated g).toWord = (0x38 : Word64) + (g.setWidth 64 <<< 8)) ∧
  (∀ s : State, Consistent s →
    (s.status.cause ≠ .internalInvariant → s.status.stage = 0) ∧
    (s.status.stage.toNat ≤ 6 ∨ s.status.stage = 15))

/-- The invariants of the machine hold at reset. -/
def Obligations.InvariantsHoldAtReset : Prop := Consistent State.reset ∧ Sound State.reset

/-- Every step from a consistent state leads to a consistent state (R26, R29, R32, R33). -/
def Obligations.ConsistentKeptByStep : Prop :=
  ∀ s t : State, Consistent s → step s = .next t → Consistent t

/-- Every step from a sound state leads to a sound state, so Halted is out of reach and FATAL stays 0 (R205). -/
def Obligations.SoundKeptByStep : Prop :=
  ∀ s t : State, Sound s → step s = .next t → Sound t

/-- The steps that write STATUS (R25). -/
def Obligations.StatusWriters : Prop :=
  ∀ s t : State, step s = .next t → t.status ≠ s.status →
    moveOf s = .reset ∨ moveOf s = .host .reset ∨
    (Ready s ∧ ∃ v, moveOf s = .host (.write 0x00 8 v)) ∨
    (moveOf s = .engine ∧
      (t.status = { s.status with busy := false, done := true } ∨
        ∃ g, t.status = { s.status with busy := false, fatal := true, cause := .internalInvariant, stage := g }))

/-- The steps that change RESULT and the operand registers: the host writes the operands, commands never do (R21, R29). -/
def Obligations.RegisterWriters : Prop :=
  ∀ s t : State, step s = .next t →
    (t.operandA ≠ s.operandA →
      moveOf s = .reset ∨ moveOf s = .host .reset ∨
        ∃ v, moveOf s = .host (.write 0x10 8 v) ∧ t.operandA = some v) ∧
    (t.operandB ≠ s.operandB →
      moveOf s = .reset ∨ moveOf s = .host .reset ∨
        ∃ v, moveOf s = .host (.write 0x18 8 v) ∧ t.operandB = some v) ∧
    (t.result ≠ s.result →
      (t.result = none ∧
        (moveOf s = .reset ∨ moveOf s = .host .reset ∨ (∃ v, moveOf s = .host (.write 0x00 8 v) ∧ decode v ≠ .ok .nop) ∨
          (moveOf s = .engine ∧ t.phase = .halted))) ∨
      (moveOf s = .engine ∧ t.phase = .idle ∧ s.phase ≠ .nop ∧ ∃ x, t.result = some x))

/-- What acceptance of any command leaves unchanged (R21, R101, R111): both operand registers and everything of the agents;
for NOP also RESULT and all latched values; where the engine starts, eng.X but for INV, eng.BW but for MULW, eng.K but for
TRUNC. -/
def Obligations.ExecFrame : Prop :=
  ∀ (i : Instr) (s t : State), exec i s = .next t →
    t.operandA = s.operandA ∧ t.operandB = s.operandB ∧
    t.program = s.program ∧ t.schedule = s.schedule ∧ t.busData = s.busData ∧
    t.status.fatal = s.status.fatal ∧
    (i = .nop → t.result = s.result ∧ t.engW = s.engW ∧ t.engAW = s.engAW ∧ t.engBW = s.engBW ∧
      t.engK = s.engK ∧ t.engX = s.engX) ∧
    (t.status.busy = true →
      ((∀ W, i ≠ invOf W) → t.engX = s.engX) ∧
      ((∀ W, i ≠ mulwOf W) → t.engBW = s.engBW) ∧
      ((∀ k, i ≠ .trunc k) → t.engK = s.engK) ∧
      ((∀ W, i ≠ invOf W) → (∀ W, i ≠ mulwOf W) → t.engW = s.engW))

/-- RESULT depends only on the command and on the operands it latches (R36). -/
def Obligations.ResultIsStateless : Prop :=
  ∀ (i : Instr) (s s' t : State), i ≠ .nop → Ready s → Ready s' → s.operandA = s'.operandA →
    (i = .mulw32 ∨ i = .mulw64 → s.operandB = s'.operandB) → runCommand i s = .next t →
    ∃ t', runCommand i s' = .next t' ∧ t'.result = t.result ∧ t'.status = t.status

/-- Outside a command in progress nothing reads the engine's registers: the next step is the same, whatever they hold (R32). -/
def Obligations.LatchesUnreadOutsideACommand : Prop :=
  ∀ s s' : State, s.status.busy = false → s.withoutLatches = s'.withoutLatches → seen (step s) = seen (step s')

/-- BUSY returns to 0 in the same step that makes every other change of the command (R62). -/
def Obligations.CompletionIsOneStep : Prop :=
  ∀ s t : State, Consistent s → step s = .next t → s.status.busy = true → t.status.busy = false →
    moveOf s = .reset ∨ moveOf s = .host .reset ∨
    (moveOf s = .engine ∧ t.status = Status.succeeded ∧ t.phase = .idle ∧
      (s.phase ≠ .nop → ∃ x, t.result = some x) ∧ (s.phase = .nop → t.result = s.result)) ∨
    (moveOf s = .engine ∧ t.status.fatal = true ∧ t.phase = .halted ∧ t.result = none)

/-- A step stops only for the reasons R206 gives, each only where R206 gives it; and the model's own two: `outsideWindow`
only beyond the window (log 9), and `stuck` exactly where no agent has an enabled step and, the model's reading of R14, no
turn left on its schedule asserts the reset input (logs 4 and 8). Every refusal is one of R206's three. -/
def Obligations.StopsOnlyAsNamed : Prop :=
  ∀ s : State, Consistent s →
    (step s = .fault .stuck ↔
      s.status.busy = false ∧ s.program = [] ∧ ∀ r ∈ s.schedule, r.reset = false) ∧
    (step s = .fault .operandUnwritten → ∃ v i, moveOf s = .host (.write 0x00 8 v) ∧ decode v = .ok i ∧ i ≠ .nop ∧
      (s.operandA = none ∨ s.operandB = none ∧ ∃ W, i = mulwOf W)) ∧
    (step s = .fault .readUnwritten → ∃ off, (moveOf s = .host (.read off 8) ∨ moveOf s = .host (.readIfDone off 8)) ∧
      (off = 0x10 ∧ s.operandA = none ∨ off = 0x18 ∧ s.operandB = none)) ∧
    (step s = .fault .readInvalidResult → s.result = none ∧
      (moveOf s = .host (.read 0x20 8) ∨ moveOf s = .host (.readIfDone 0x20 8))) ∧
    (step s = .fault .outsideWindow → ∃ act off, moveOf s = .host act ∧ act.Accesses off 8 ∧ off % 8 = 0 ∧ 0x40 ≤ off) ∧
    (step s = .refused .hostWriteWhileBusy → s.status.busy = true ∧ ∃ off v, moveOf s = .host (.write off 8 v) ∧
      (off = 0x00 ∨ off = 0x10 ∨ off = 0x18)) ∧
    (step s = .refused .reservedOffset → ∃ act off n, moveOf s = .host act ∧ act.Accesses off n ∧
      (off = 0x28 ∨ off = 0x30 ∨ off = 0x38)) ∧
    (step s = .refused .narrowOrMisalignedAccess → ∃ act off n, moveOf s = .host act ∧ act.Accesses off n ∧
      (n ≠ 8 ∨ off % 8 ≠ 0) ∧ off ≠ 0x28 ∧ off ≠ 0x30 ∧ off ≠ 0x38) ∧
    (∀ r, step s = .refused r → r = .hostWriteWhileBusy ∨ r = .reservedOffset ∨ r = .narrowOrMisalignedAccess)
end

