-- ==== Sys2Proof/Laws/Arith.lean ====
section
/-! SUPPORT. The two units on natural numbers: ranges and the plain-modulus reading of MASK_k (R150, R170). -/

namespace Sys2Proof.Machine

theorem mask_lt (k : Nat) (v : Int) : mask k v < 2 ^ k := by
  have hpos : (0 : Int) < ((2 ^ k : Nat) : Int) := by exact_mod_cast Nat.two_pow_pos k
  have h1 := Int.emod_nonneg v (ne_of_gt hpos)
  have h2 := Int.emod_lt_of_pos v hpos
  unfold mask
  omega

/-- The value of MASK_k, back among the integers. -/
theorem mask_cast (k : Nat) (v : Int) : (mask k v : Int) = v % ((2 ^ k : Nat) : Int) := by
  have hpos : (0 : Int) < ((2 ^ k : Nat) : Int) := by exact_mod_cast Nat.two_pow_pos k
  exact Int.toNat_of_nonneg (Int.emod_nonneg v (ne_of_gt hpos))

@[simp] theorem mask_natCast (k n : Nat) : mask k (n : Int) = n % 2 ^ k := by
  have h := mask_cast k (n : Int)
  exact_mod_cast h

theorem mulMod_lt (W : Width) (p q : Nat) : mulMod W p q < 2 ^ W.bits :=
  Nat.mod_lt _ (Nat.two_pow_pos _)

theorem upd_lt (a x : Nat) (W : Width) : upd a x W < 2 ^ W.bits := mask_lt _ _

theorem Width.bits_le (W : Width) : W.bits ≤ 64 := by cases W <;> decide

theorem Width.pow_bits_le (W : Width) : 2 ^ W.bits ≤ 2 ^ 64 := Nat.pow_le_pow_right (by decide) (bits_le W)

/-- A value below 2^W is kept by the 64-bit register that holds it. -/
theorem toNat_ofNat_of_lt_bits (W : Width) {n : Nat} (h : n < 2 ^ W.bits) : (BitVec.ofNat 64 n).toNat = n := by
  rw [BitVec.toNat_ofNat]
  exact Nat.mod_eq_of_lt (lt_of_lt_of_le h (Width.pow_bits_le W))

@[simp] theorem latch_toNat (W : Width) (v : Word64) : (latch W v).toNat = v.toNat % 2 ^ W.bits := by
  unfold latch
  rw [mask_natCast, toNat_ofNat_of_lt_bits W (Nat.mod_lt _ (Nat.two_pow_pos _))]

theorem latch_lt (W : Width) (v : Word64) : (latch W v).toNat < 2 ^ W.bits := by
  rw [latch_toNat]
  exact Nat.mod_lt _ (Nat.two_pow_pos _)

/-- Truncation keeps bit 0, so the parity test may look at the register or at its latched copy (R201). -/
theorem latch_bit_zero (W : Width) (v : Word64) : (latch W v).getLsbD 0 = v.getLsbD 0 := by
  have h : (latch W v).toNat % 2 = v.toNat % 2 := by
    rw [latch_toNat]
    cases W <;> simp only [Width.bits] <;> omega
  simp only [BitVec.getLsbD, Nat.testBit_zero, h]

theorem threshold_le (W : Width) (i : Nat) : threshold W i ≤ W.bits := Nat.min_le_right _ _

end Sys2Proof.Machine
end

