-- ==== Sys2Proof/Laws/Decode.lean ====
section
/-! SUPPORT. A CMD value is its six fields packed together, and decoding in terms of the fields (R81, R88). -/

namespace Sys2Proof

/-- Bit `i` of a packed value, by the field it falls in. -/
theorem pack_bit (a : BitVec 32) (b : BitVec 17) (c : BitVec 7) (d : BitVec 3) (e : BitVec 1) (f : BitVec 4) (i : Nat) :
    (packCommand a b c d e f).getLsbD i =
      if i < 4 then f.getLsbD i else if i < 5 then e.getLsbD (i - 4) else if i < 8 then d.getLsbD (i - 5)
      else if i < 15 then c.getLsbD (i - 8) else if i < 32 then b.getLsbD (i - 15) else a.getLsbD (i - 32) := by
  unfold packCommand
  simp only [BitVec.getLsbD_append]
  by_cases h1 : i < 4
  · simp [h1]
  by_cases h2 : i < 5
  · simp [h1, h2, show i - 4 < 1 by omega]
  by_cases h3 : i < 8
  · simp [h1, h2, h3, show ¬ i - 4 < 1 by omega, show i - 4 - 1 = i - 5 by omega]
    omega
  by_cases h4 : i < 15
  · simp [h1, h2, h3, h4, show ¬ i - 4 < 1 by omega, show ¬ i - 4 - 1 < 3 by omega,
      show i - 4 - 1 - 3 = i - 8 by omega]
    omega
  by_cases h5 : i < 32
  · simp [h1, h2, h3, h4, h5, show ¬ i - 4 < 1 by omega, show ¬ i - 4 - 1 < 3 by omega,
      show ¬ i - 4 - 1 - 3 < 7 by omega, show i - 4 - 1 - 3 - 7 = i - 15 by omega]
    omega
  · simp [h1, h2, h3, h4, h5, show ¬ i - 4 < 1 by omega, show ¬ i - 4 - 1 < 3 by omega,
      show ¬ i - 4 - 1 - 3 < 7 by omega, show ¬ i - 4 - 1 - 3 - 7 < 17 by omega,
      show i - 4 - 1 - 3 - 7 - 17 = i - 32 by omega]

/-- Every value is the packing of its own fields. -/
theorem pack_fields (v : Word64) :
    v = packCommand (fieldRSVH v) (fieldRSV1 v) (fieldK v) (fieldRSV0 v) (fieldWSEL v) (fieldOPC v) := by
  apply BitVec.eq_of_getLsbD_eq
  intro i hi
  rw [pack_bit]
  unfold fieldRSVH fieldRSV1 fieldK fieldRSV0 fieldWSEL fieldOPC
  simp only [BitVec.getLsbD_extractLsb']
  repeat' split
  · simp; omega
  · simp [show 4 + (i - 4) = i by omega]; omega
  · simp [show 5 + (i - 5) = i by omega]; omega
  · simp [show 8 + (i - 8) = i by omega]; omega
  · simp [show 15 + (i - 15) = i by omega]; omega
  · simp [show 32 + (i - 32) = i by omega]; omega

/-- The fields of a packed value. -/
theorem fields_pack (a : BitVec 32) (b : BitVec 17) (c : BitVec 7) (d : BitVec 3) (e : BitVec 1) (f : BitVec 4) :
    fieldRSVH (packCommand a b c d e f) = a ∧ fieldRSV1 (packCommand a b c d e f) = b ∧
      fieldK (packCommand a b c d e f) = c ∧ fieldRSV0 (packCommand a b c d e f) = d ∧
      fieldWSEL (packCommand a b c d e f) = e ∧ fieldOPC (packCommand a b c d e f) = f := by
  unfold fieldRSVH fieldRSV1 fieldK fieldRSV0 fieldWSEL fieldOPC
  refine ⟨?_, ?_, ?_, ?_, ?_, ?_⟩ <;>
  · apply BitVec.eq_of_getLsbD_eq
    intro i hi
    rw [BitVec.getLsbD_extractLsb', pack_bit]
    repeat rw [if_neg (by omega)]
    first
      | rw [if_pos (by omega)]; simp [hi]
      | simp [hi]

/-- Masking a packed value masks each field. -/
theorem pack_and (a : BitVec 32) (b : BitVec 17) (c : BitVec 7) (d : BitVec 3) (e : BitVec 1) (f : BitVec 4)
    (a' : BitVec 32) (b' : BitVec 17) (c' : BitVec 7) (d' : BitVec 3) (e' : BitVec 1) (f' : BitVec 4) :
    packCommand a b c d e f &&& packCommand a' b' c' d' e' f' =
      packCommand (a &&& a') (b &&& b') (c &&& c') (d &&& d') (e &&& e') (f &&& f') := by
  apply BitVec.eq_of_getLsbD_eq
  intro i hi
  rw [BitVec.getLsbD_and, pack_bit, pack_bit, pack_bit]
  repeat' split
  all_goals simp

/-- Two packed values are equal exactly when their fields are. -/
theorem pack_inj {a : BitVec 32} {b : BitVec 17} {c : BitVec 7} {d : BitVec 3} {e : BitVec 1} {f : BitVec 4}
    {a' : BitVec 32} {b' : BitVec 17} {c' : BitVec 7} {d' : BitVec 3} {e' : BitVec 1} {f' : BitVec 4} :
    packCommand a b c d e f = packCommand a' b' c' d' e' f' ↔
      a = a' ∧ b = b' ∧ c = c' ∧ d = d' ∧ e = e' ∧ f = f' := by
  constructor
  · intro h
    have h1 := fields_pack a b c d e f
    have h2 := fields_pack a' b' c' d' e' f'
    rw [h] at h1
    simp_all
  · rintro ⟨rfl, rfl, rfl, rfl, rfl, rfl⟩
    rfl

/-- Decoding by fields. -/
theorem decode_pack (a : BitVec 32) (b : BitVec 17) (c : BitVec 7) (d : BitVec 3) (e : BitVec 1) (f : BitVec 4) :
    decode (packCommand a b c d e f) =
      if a ≠ 0 ∨ b ≠ 0 ∨ d ≠ 0 then .error .reservedBits
      else if f = 0 then (if e ≠ 0 then .error .wselNotAllowed else if c ≠ 0 then .error .kNotAllowed else .ok .nop)
      else if f = 1 then (if c ≠ 0 then .error .kNotAllowed else if e = 0 then .ok .inv32 else .ok .inv64)
      else if f = 2 then (if c ≠ 0 then .error .kNotAllowed else if e = 0 then .ok .mulw32 else .ok .mulw64)
      else if f = 3 then
        (if e ≠ 0 then .error .wselNotAllowed else if c.toNat ≤ 64 then .ok (.trunc c) else .error .kTooLarge)
      else .error .reservedOpcode := by
  obtain ⟨h1, h2, h3, h4, h5, h6⟩ := fields_pack a b c d e f
  unfold decode decodeNop decodeByWidth decodeTrunc
  rw [h1, h2, h3, h4, h5, h6]

end Sys2Proof
end

