-- ==== Sys2Proof/Laws/State.lean ====
section
/-! SUPPORT. One lemma per field of State for each shared update, all true by unfolding it once. -/

namespace Sys2Proof.Machine

/-! dropLatches -/

@[simp] theorem dropLatches_status (s : State) : (dropLatches s).status = s.status := rfl
@[simp] theorem dropLatches_operandA (s : State) : (dropLatches s).operandA = s.operandA := rfl
@[simp] theorem dropLatches_operandB (s : State) : (dropLatches s).operandB = s.operandB := rfl
@[simp] theorem dropLatches_result (s : State) : (dropLatches s).result = s.result := rfl
@[simp] theorem dropLatches_phase (s : State) : (dropLatches s).phase = s.phase := rfl
@[simp] theorem dropLatches_engW (s : State) : (dropLatches s).engW = (if Config.freeWide s.draws then .w64 else .w32) := rfl
@[simp] theorem dropLatches_engAW (s : State) : (dropLatches s).engAW = (Config.freeAW s.draws) := rfl
@[simp] theorem dropLatches_engBW (s : State) : (dropLatches s).engBW = (Config.freeBW s.draws) := rfl
@[simp] theorem dropLatches_engK (s : State) : (dropLatches s).engK = (Config.freeK s.draws % 65) := rfl
@[simp] theorem dropLatches_engX (s : State) : (dropLatches s).engX = (Config.freeX s.draws) := rfl
@[simp] theorem dropLatches_draws (s : State) : (dropLatches s).draws = s.draws + 1 := rfl
@[simp] theorem dropLatches_program (s : State) : (dropLatches s).program = s.program := rfl
@[simp] theorem dropLatches_schedule (s : State) : (dropLatches s).schedule = s.schedule := rfl
@[simp] theorem dropLatches_busData (s : State) : (dropLatches s).busData = s.busData := rfl

/-! resetBlock -/

@[simp] theorem resetBlock_status (s : State) : (resetBlock s).status = Status.zero := rfl
@[simp] theorem resetBlock_operandA (s : State) : (resetBlock s).operandA = none := rfl
@[simp] theorem resetBlock_operandB (s : State) : (resetBlock s).operandB = none := rfl
@[simp] theorem resetBlock_result (s : State) : (resetBlock s).result = none := rfl
@[simp] theorem resetBlock_phase (s : State) : (resetBlock s).phase = .idle := rfl
@[simp] theorem resetBlock_engW (s : State) : (resetBlock s).engW = (if Config.freeWide s.draws then .w64 else .w32) := rfl
@[simp] theorem resetBlock_engAW (s : State) : (resetBlock s).engAW = Config.freeAW s.draws := rfl
@[simp] theorem resetBlock_engBW (s : State) : (resetBlock s).engBW = Config.freeBW s.draws := rfl
@[simp] theorem resetBlock_engK (s : State) : (resetBlock s).engK = Config.freeK s.draws % 65 := rfl
@[simp] theorem resetBlock_engX (s : State) : (resetBlock s).engX = Config.freeX s.draws := rfl
@[simp] theorem resetBlock_draws (s : State) : (resetBlock s).draws = s.draws + 1 := rfl
@[simp] theorem resetBlock_program (s : State) : (resetBlock s).program = s.program := rfl
@[simp] theorem resetBlock_schedule (s : State) : (resetBlock s).schedule = s.schedule := rfl
@[simp] theorem resetBlock_busData (s : State) : (resetBlock s).busData = s.busData := rfl

/-! raiseInvalidInput -/

@[simp] theorem raiseInvalidInput_status (c : Cause) (s : State) : (raiseInvalidInput c s).status = s.status.invalidInput c := rfl
@[simp] theorem raiseInvalidInput_operandA (c : Cause) (s : State) : (raiseInvalidInput c s).operandA = s.operandA := rfl
@[simp] theorem raiseInvalidInput_operandB (c : Cause) (s : State) : (raiseInvalidInput c s).operandB = s.operandB := rfl
@[simp] theorem raiseInvalidInput_result (c : Cause) (s : State) : (raiseInvalidInput c s).result = s.result := rfl
@[simp] theorem raiseInvalidInput_phase (c : Cause) (s : State) : (raiseInvalidInput c s).phase = s.phase := rfl
@[simp] theorem raiseInvalidInput_engW (c : Cause) (s : State) : (raiseInvalidInput c s).engW = (if Config.freeWide s.draws then .w64 else .w32) := rfl
@[simp] theorem raiseInvalidInput_engAW (c : Cause) (s : State) : (raiseInvalidInput c s).engAW = Config.freeAW s.draws := rfl
@[simp] theorem raiseInvalidInput_engBW (c : Cause) (s : State) : (raiseInvalidInput c s).engBW = Config.freeBW s.draws := rfl
@[simp] theorem raiseInvalidInput_engK (c : Cause) (s : State) : (raiseInvalidInput c s).engK = Config.freeK s.draws % 65 := rfl
@[simp] theorem raiseInvalidInput_engX (c : Cause) (s : State) : (raiseInvalidInput c s).engX = Config.freeX s.draws := rfl
@[simp] theorem raiseInvalidInput_draws (c : Cause) (s : State) : (raiseInvalidInput c s).draws = s.draws + 1 := rfl
@[simp] theorem raiseInvalidInput_program (c : Cause) (s : State) : (raiseInvalidInput c s).program = s.program := rfl
@[simp] theorem raiseInvalidInput_schedule (c : Cause) (s : State) : (raiseInvalidInput c s).schedule = s.schedule := rfl
@[simp] theorem raiseInvalidInput_busData (c : Cause) (s : State) : (raiseInvalidInput c s).busData = s.busData := rfl

/-! raiseInternalInvariant -/

@[simp] theorem raiseInternalInvariant_status (g : BitVec 4) (s : State) : (raiseInternalInvariant g s).status = s.status.violated g := rfl
@[simp] theorem raiseInternalInvariant_operandA (g : BitVec 4) (s : State) : (raiseInternalInvariant g s).operandA = s.operandA := rfl
@[simp] theorem raiseInternalInvariant_operandB (g : BitVec 4) (s : State) : (raiseInternalInvariant g s).operandB = s.operandB := rfl
@[simp] theorem raiseInternalInvariant_result (g : BitVec 4) (s : State) : (raiseInternalInvariant g s).result = none := rfl
@[simp] theorem raiseInternalInvariant_phase (g : BitVec 4) (s : State) : (raiseInternalInvariant g s).phase = .halted := rfl
@[simp] theorem raiseInternalInvariant_engW (g : BitVec 4) (s : State) : (raiseInternalInvariant g s).engW = (if Config.freeWide s.draws then .w64 else .w32) := rfl
@[simp] theorem raiseInternalInvariant_engAW (g : BitVec 4) (s : State) : (raiseInternalInvariant g s).engAW = Config.freeAW s.draws := rfl
@[simp] theorem raiseInternalInvariant_engBW (g : BitVec 4) (s : State) : (raiseInternalInvariant g s).engBW = Config.freeBW s.draws := rfl
@[simp] theorem raiseInternalInvariant_engK (g : BitVec 4) (s : State) : (raiseInternalInvariant g s).engK = Config.freeK s.draws % 65 := rfl
@[simp] theorem raiseInternalInvariant_engX (g : BitVec 4) (s : State) : (raiseInternalInvariant g s).engX = Config.freeX s.draws := rfl
@[simp] theorem raiseInternalInvariant_draws (g : BitVec 4) (s : State) : (raiseInternalInvariant g s).draws = s.draws + 1 := rfl
@[simp] theorem raiseInternalInvariant_program (g : BitVec 4) (s : State) : (raiseInternalInvariant g s).program = s.program := rfl
@[simp] theorem raiseInternalInvariant_schedule (g : BitVec 4) (s : State) : (raiseInternalInvariant g s).schedule = s.schedule := rfl
@[simp] theorem raiseInternalInvariant_busData (g : BitVec 4) (s : State) : (raiseInternalInvariant g s).busData = s.busData := rfl

/-! startEngine -/

@[simp] theorem startEngine_status (p : Phase) (s : State) : (startEngine p s).status = s.status.started := rfl
@[simp] theorem startEngine_operandA (p : Phase) (s : State) : (startEngine p s).operandA = s.operandA := rfl
@[simp] theorem startEngine_operandB (p : Phase) (s : State) : (startEngine p s).operandB = s.operandB := rfl
@[simp] theorem startEngine_result (p : Phase) (s : State) : (startEngine p s).result = s.result := rfl
@[simp] theorem startEngine_phase (p : Phase) (s : State) : (startEngine p s).phase = p := rfl
@[simp] theorem startEngine_engW (p : Phase) (s : State) : (startEngine p s).engW = s.engW := rfl
@[simp] theorem startEngine_engAW (p : Phase) (s : State) : (startEngine p s).engAW = s.engAW := rfl
@[simp] theorem startEngine_engBW (p : Phase) (s : State) : (startEngine p s).engBW = s.engBW := rfl
@[simp] theorem startEngine_engK (p : Phase) (s : State) : (startEngine p s).engK = s.engK := rfl
@[simp] theorem startEngine_engX (p : Phase) (s : State) : (startEngine p s).engX = s.engX := rfl
@[simp] theorem startEngine_draws (p : Phase) (s : State) : (startEngine p s).draws = s.draws := rfl
@[simp] theorem startEngine_program (p : Phase) (s : State) : (startEngine p s).program = s.program := rfl
@[simp] theorem startEngine_schedule (p : Phase) (s : State) : (startEngine p s).schedule = s.schedule := rfl
@[simp] theorem startEngine_busData (p : Phase) (s : State) : (startEngine p s).busData = s.busData := rfl

/-! complete -/

@[simp] theorem complete_status (r : Option Word64) (s : State) : (complete r s).status = s.status.completed := rfl
@[simp] theorem complete_operandA (r : Option Word64) (s : State) : (complete r s).operandA = s.operandA := rfl
@[simp] theorem complete_operandB (r : Option Word64) (s : State) : (complete r s).operandB = s.operandB := rfl
@[simp] theorem complete_phase (r : Option Word64) (s : State) : (complete r s).phase = .idle := rfl
@[simp] theorem complete_engW (r : Option Word64) (s : State) : (complete r s).engW = (if Config.freeWide s.draws then .w64 else .w32) := rfl
@[simp] theorem complete_engAW (r : Option Word64) (s : State) : (complete r s).engAW = Config.freeAW s.draws := rfl
@[simp] theorem complete_engBW (r : Option Word64) (s : State) : (complete r s).engBW = Config.freeBW s.draws := rfl
@[simp] theorem complete_engK (r : Option Word64) (s : State) : (complete r s).engK = Config.freeK s.draws % 65 := rfl
@[simp] theorem complete_engX (r : Option Word64) (s : State) : (complete r s).engX = Config.freeX s.draws := rfl
@[simp] theorem complete_draws (r : Option Word64) (s : State) : (complete r s).draws = s.draws + 1 := rfl
@[simp] theorem complete_program (r : Option Word64) (s : State) : (complete r s).program = s.program := rfl
@[simp] theorem complete_schedule (r : Option Word64) (s : State) : (complete r s).schedule = s.schedule := rfl
@[simp] theorem complete_busData (r : Option Word64) (s : State) : (complete r s).busData = s.busData := rfl

@[simp] theorem complete_some_result (v : Word64) (s : State) : (complete (some v) s).result = some v := rfl

@[simp] theorem complete_none_result (s : State) : (complete none s).result = s.result := rfl

/-! withFetchWord -/

@[simp] theorem withFetchWord_status (s : State) (nbits w : Nat) : (s.withFetchWord nbits w).status = s.status := rfl
@[simp] theorem withFetchWord_operandA (s : State) (nbits w : Nat) : (s.withFetchWord nbits w).operandA = some (s.operandA.getD 1) := rfl
@[simp] theorem withFetchWord_operandB (s : State) (nbits w : Nat) : (s.withFetchWord nbits w).operandB = some (s.operandB.getD 1) := rfl
@[simp] theorem withFetchWord_result (s : State) (nbits w : Nat) : (s.withFetchWord nbits w).result = s.result := rfl
@[simp] theorem withFetchWord_phase (s : State) (nbits w : Nat) : (s.withFetchWord nbits w).phase = s.phase := rfl
@[simp] theorem withFetchWord_engW (s : State) (nbits w : Nat) : (s.withFetchWord nbits w).engW = s.engW := rfl
@[simp] theorem withFetchWord_engAW (s : State) (nbits w : Nat) : (s.withFetchWord nbits w).engAW = s.engAW := rfl
@[simp] theorem withFetchWord_engBW (s : State) (nbits w : Nat) : (s.withFetchWord nbits w).engBW = s.engBW := rfl
@[simp] theorem withFetchWord_engK (s : State) (nbits w : Nat) : (s.withFetchWord nbits w).engK = s.engK := rfl
@[simp] theorem withFetchWord_engX (s : State) (nbits w : Nat) : (s.withFetchWord nbits w).engX = s.engX := rfl
@[simp] theorem withFetchWord_draws (s : State) (nbits w : Nat) : (s.withFetchWord nbits w).draws = s.draws := rfl
@[simp] theorem withFetchWord_program (s : State) (nbits w : Nat) : (s.withFetchWord nbits w).program = .write 0x00 8 (BitVec.ofNat 64 (w % 2 ^ nbits)) :: s.program := rfl
@[simp] theorem withFetchWord_schedule (s : State) (nbits w : Nat) : (s.withFetchWord nbits w).schedule = { agent := .host, reset := false } :: s.schedule := rfl
@[simp] theorem withFetchWord_busData (s : State) (nbits w : Nat) : (s.withFetchWord nbits w).busData = s.busData := rfl

end Sys2Proof.Machine
end

