-- ==== Sys2Proof/Laws/Status.lean ====
section
/-! SUPPORT. One lemma per field of STATUS for each computation that changes it. -/

namespace Sys2Proof.Machine

@[simp] theorem status_zero_busy : (Status.zero).busy = false := rfl
@[simp] theorem status_zero_done : (Status.zero).done = false := rfl
@[simp] theorem status_zero_err : (Status.zero).err = false := rfl
@[simp] theorem status_zero_fatal : (Status.zero).fatal = false := rfl
@[simp] theorem status_zero_cause : (Status.zero).cause = .none := rfl
@[simp] theorem status_zero_stage : (Status.zero).stage = 0 := rfl

@[simp] theorem status_cleared_busy (f : Status) : (f.cleared).busy = f.busy := rfl
@[simp] theorem status_cleared_done (f : Status) : (f.cleared).done = false := rfl
@[simp] theorem status_cleared_err (f : Status) : (f.cleared).err = false := rfl
@[simp] theorem status_cleared_fatal (f : Status) : (f.cleared).fatal = f.fatal := rfl
@[simp] theorem status_cleared_cause (f : Status) : (f.cleared).cause = .none := rfl
@[simp] theorem status_cleared_stage (f : Status) : (f.cleared).stage = 0 := rfl

@[simp] theorem status_started_busy (f : Status) : (f.started).busy = true := rfl
@[simp] theorem status_started_done (f : Status) : (f.started).done = f.done := rfl
@[simp] theorem status_started_err (f : Status) : (f.started).err = f.err := rfl
@[simp] theorem status_started_fatal (f : Status) : (f.started).fatal = f.fatal := rfl
@[simp] theorem status_started_cause (f : Status) : (f.started).cause = f.cause := rfl
@[simp] theorem status_started_stage (f : Status) : (f.started).stage = f.stage := rfl

@[simp] theorem status_completed_busy (f : Status) : (f.completed).busy = false := rfl
@[simp] theorem status_completed_done (f : Status) : (f.completed).done = true := rfl
@[simp] theorem status_completed_err (f : Status) : (f.completed).err = f.err := rfl
@[simp] theorem status_completed_fatal (f : Status) : (f.completed).fatal = f.fatal := rfl
@[simp] theorem status_completed_cause (f : Status) : (f.completed).cause = f.cause := rfl
@[simp] theorem status_completed_stage (f : Status) : (f.completed).stage = f.stage := rfl

@[simp] theorem status_invalidInput_busy (c : Cause) (f : Status) : (f.invalidInput c).busy = f.busy := rfl
@[simp] theorem status_invalidInput_done (c : Cause) (f : Status) : (f.invalidInput c).done = f.done := rfl
@[simp] theorem status_invalidInput_err (c : Cause) (f : Status) : (f.invalidInput c).err = true := rfl
@[simp] theorem status_invalidInput_fatal (c : Cause) (f : Status) : (f.invalidInput c).fatal = f.fatal := rfl
@[simp] theorem status_invalidInput_cause (c : Cause) (f : Status) : (f.invalidInput c).cause = c := rfl
@[simp] theorem status_invalidInput_stage (c : Cause) (f : Status) : (f.invalidInput c).stage = 0 := rfl

@[simp] theorem status_violated_busy (g : BitVec 4) (f : Status) : (f.violated g).busy = false := rfl
@[simp] theorem status_violated_done (g : BitVec 4) (f : Status) : (f.violated g).done = f.done := rfl
@[simp] theorem status_violated_err (g : BitVec 4) (f : Status) : (f.violated g).err = f.err := rfl
@[simp] theorem status_violated_fatal (g : BitVec 4) (f : Status) : (f.violated g).fatal = true := rfl
@[simp] theorem status_violated_cause (g : BitVec 4) (f : Status) : (f.violated g).cause = .internalInvariant := rfl
@[simp] theorem status_violated_stage (g : BitVec 4) (f : Status) : (f.violated g).stage = g := rfl

end Sys2Proof.Machine
end

