-- ==== Sys2Proof/Laws/Ops.lean ====
section
/-! SUPPORT. What each shared operation can answer, said once: the gate, acceptance, the arms of acceptance, and the engine step. -/

namespace Sys2Proof.Machine

variable {s t : State} {k : State → Host.Outcome State Fault Refusal}

/-! The gate of a host write. -/

theorem gatedWrite_busy (h : s.status.busy = true) : gatedWrite k s = .refused .hostWriteWhileBusy := by
  simp [gatedWrite, h]

theorem gatedWrite_fatal (hb : s.status.busy = false) (hf : s.status.fatal = true) : gatedWrite k s = .next s := by
  simp [gatedWrite, hb, hf]

theorem gatedWrite_open (hb : s.status.busy = false) (hf : s.status.fatal = false) : gatedWrite k s = k s := by
  simp [gatedWrite, hb, hf]

/-- A gated write that answers a next state found BUSY = 0, and either had no effect or had its own. -/
theorem gatedWrite_next (h : gatedWrite k s = .next t) :
    s.status.busy = false ∧ (s.status.fatal = true ∧ t = s ∨ s.status.fatal = false ∧ k s = .next t) := by
  cases hb : s.status.busy
  · cases hf : s.status.fatal
    · rw [gatedWrite_open hb hf] at h
      exact ⟨rfl, .inr ⟨rfl, h⟩⟩
    · rw [gatedWrite_fatal hb hf] at h
      cases h
      exact ⟨rfl, .inl ⟨rfl, rfl⟩⟩
  · rw [gatedWrite_busy hb] at h
    cases h

/-- Acceptance in a state that allows it is the command's own part on the cleared STATUS. -/
theorem acceptCommand_open (hb : s.status.busy = false) (hf : s.status.fatal = false) :
    acceptCommand k s = k { s with status := s.status.cleared } := gatedWrite_open hb hf

theorem acceptCommand_next (h : acceptCommand k s = .next t) :
    s.status.busy = false ∧
      (s.status.fatal = true ∧ t = s ∨ s.status.fatal = false ∧ k { s with status := s.status.cleared } = .next t) :=
  gatedWrite_next h

/-! The operands acceptance requires. -/

theorem withOperandA_next {f : Word64 → Host.Outcome State Fault Refusal} (h : withOperandA s f = .next t) :
    ∃ a, s.operandA = some a ∧ f a = .next t := by
  unfold withOperandA at h
  cases ha : s.operandA with
  | some a => exact ⟨a, rfl, by simpa [ha] using h⟩
  | none => simp [ha] at h

theorem withOperandB_next {f : Word64 → Host.Outcome State Fault Refusal} (h : withOperandB s f = .next t) :
    ∃ b, s.operandB = some b ∧ f b = .next t := by
  unfold withOperandB at h
  cases hb : s.operandB with
  | some b => exact ⟨b, rfl, by simpa [hb] using h⟩
  | none => simp [hb] at h

/-! The arms of acceptance. -/

/-- INV's arm: an odd operand starts the engine, an even one raises EVEN_OPERAND; both invalidate RESULT and latch. -/
theorem startInverse_next {W : Width} (h : startInverse W s = .next t) :
    ∃ a, s.operandA = some a ∧
      (a.getLsbD 0 = true ∧
          t = startEngine (.inv 0) { s with result := none, engW := W, engAW := latch W a, engX := latch W a } ∨
        a.getLsbD 0 = false ∧
          t = raiseInvalidInput .evenOperand { s with result := none, engW := W, engAW := latch W a }) := by
  obtain ⟨a, ha, h⟩ := withOperandA_next h
  refine ⟨a, ha, ?_⟩
  simp only [latch_bit_zero] at h
  cases hp : a.getLsbD 0
  · simp only [hp, Bool.false_eq_true, if_false, Host.Outcome.next.injEq] at h
    exact .inr ⟨rfl, h.symm⟩
  · simp only [hp, if_true, Host.Outcome.next.injEq] at h
    exact .inl ⟨rfl, h.symm⟩

theorem startMultiply_next {W : Width} (h : startMultiply W s = .next t) :
    ∃ a b, s.operandA = some a ∧ s.operandB = some b ∧
      t = startEngine .mul { s with result := none, engW := W, engAW := latch W a, engBW := latch W b } := by
  obtain ⟨a, ha, h⟩ := withOperandA_next h
  obtain ⟨b, hb, h⟩ := withOperandB_next h
  cases h
  exact ⟨a, b, ha, hb, rfl⟩

theorem startTruncate_next {K : BitVec 7} (h : startTruncate K s = .next t) :
    ∃ a, s.operandA = some a ∧
      t = startEngine .trunc { s with result := none, engK := K.toNat, engAW := a } := by
  obtain ⟨a, ha, h⟩ := withOperandA_next h
  cases h
  exact ⟨a, ha, rfl⟩

/-! The engine step. -/

/-- The four ends of the INV step: a failed checkpoint, the next update, a failed final check, completion. -/
theorem stepInv_cases (i : Nat) (s : State) :
    (mask (threshold s.engW i) (mulMod s.engW s.engX.toNat s.engAW.toNat : Int) ≠ 1 ∧
        stepInv i s = raiseInternalInvariant (BitVec.ofNat 4 i) s) ∨
      (mask (threshold s.engW i) (mulMod s.engW s.engX.toNat s.engAW.toNat : Int) = 1 ∧ i < updates s.engW ∧
        stepInv i s =
          { s with engX := BitVec.ofNat 64 (upd s.engAW.toNat s.engX.toNat s.engW), phase := .inv (i + 1) }) ∨
      (¬ i < updates s.engW ∧ (mulMod s.engW s.engX.toNat s.engAW.toNat ≠ 1 ∨ s.engX.getLsbD 0 = false) ∧
        stepInv i s = raiseInternalInvariant 15 s) ∨
      (¬ i < updates s.engW ∧ mulMod s.engW s.engX.toNat s.engAW.toNat = 1 ∧ s.engX.getLsbD 0 = true ∧
        stepInv i s = complete (some s.engX) s) := by
  unfold stepInv
  dsimp only
  split
  · exact .inl ⟨‹_›, rfl⟩
  · rename_i hc
    have hc := not_not.mp hc
    split
    · exact .inr (.inl ⟨hc, ‹_›, rfl⟩)
    · split
      · exact .inr (.inr (.inl ⟨‹_›, ‹_›, rfl⟩))
      · rename_i hn hf
        rw [not_or] at hf
        exact .inr (.inr (.inr ⟨hn, not_not.mp hf.1, by simpa using hf.2, rfl⟩))

/-- An engine step that answers a next state is the step of the phase it found. -/
theorem engineStep_next (h : engineStep s = .next t) :
    (s.phase = .nop ∧ t = stepNop s) ∨ (∃ i, s.phase = .inv i ∧ t = stepInv i s) ∨
      (s.phase = .mul ∧ t = stepMul s) ∨ (s.phase = .trunc ∧ t = stepTrunc s) := by
  unfold engineStep at h
  cases hp : s.phase <;> simp_all

end Sys2Proof.Machine
end

