-- ==== Sys2Proof/Laws/PerInstr.lean ====
section
/-! SUPPORT. One family of per-instruction lemmas: every command's encoding has its reserved fields zero (R80, R81). -/

namespace Sys2Proof.Laws.ReservedZero

/-- RSVH, RSV1 and RSV0 of the encoding are zero. -/
def Statement (i : Instr) : Prop :=
  fieldRSVH (encode i) = 0 ∧ fieldRSV1 (encode i) = 0 ∧ fieldRSV0 (encode i) = 0

theorem nop : Statement .nop := by unfold Statement; decide
theorem inv32 : Statement .inv32 := by unfold Statement; decide
theorem inv64 : Statement .inv64 := by unfold Statement; decide
theorem mulw32 : Statement .mulw32 := by unfold Statement; decide
theorem mulw64 : Statement .mulw64 := by unfold Statement; decide
theorem trunc (k : BitVec 7) : Statement (.trunc k) := by revert k; unfold Statement; decide

end Sys2Proof.Laws.ReservedZero
end

