-- ==== Sys2Proof/Laws/Step.lean ====
section
/-! SUPPORT. What one step can do, said once: the moves of the machine, the host's actions and the writes of the window. -/

namespace Sys2Proof.Machine

variable {s t : State}

/-! Next states up to the engine's registers. -/

@[simp] theorem dropLatches_withoutLatches (s : State) : (dropLatches s).withoutLatches = s.withoutLatches := rfl

/-- An outcome that drops the latches at its end is, up to them, the state it dropped them from. -/
theorem endsAs_of_dropLatches {o : Host.Outcome State Fault Refusal} {u : State} (h : o = .next (dropLatches u)) :
    EndsAs o u := by
  unfold EndsAs
  rw [h]
  rfl

/-! Acceptance and writes. -/

/-- Every command's acceptance is one gated write. -/
theorem exec_gated (i : Instr) : ∃ k, ∀ s, exec i s = gatedWrite k s := by
  cases i <;> exact ⟨_, fun _ => rfl⟩

theorem exec_invOf (W : Width) (s : State) : exec (invOf W) s = acceptCommand (startInverse W) s := by cases W <;> rfl

theorem exec_mulwOf (W : Width) (s : State) : exec (mulwOf W) s = acceptCommand (startMultiply W) s := by cases W <;> rfl

theorem memWrite_cmd (v : Word64) (s : State) : memWrite 0x00 8 v s = acceptWord v s := rfl

theorem memWrite_operandA (v : Word64) (s : State) :
    memWrite 0x10 8 v s = gatedWrite (fun t => .next { t with operandA := some v }) s := rfl

theorem memWrite_operandB (v : Word64) (s : State) :
    memWrite 0x18 8 v s = gatedWrite (fun t => .next { t with operandB := some v }) s := rfl

/-- A host write that answers a next state had no effect, wrote an operand register, or was an acceptance. -/
theorem memWrite_next {off n : Nat} {v : Word64} (h : memWrite off n v s = .next t) :
    t = s ∨
      (off = 0x00 ∧ n = 8 ∧ acceptWord v s = .next t) ∨
      (off = 0x10 ∧ n = 8 ∧ s.status.busy = false ∧ t = { s with operandA := some v }) ∨
      (off = 0x18 ∧ n = 8 ∧ s.status.busy = false ∧ t = { s with operandB := some v }) := by
  unfold memWrite accessAt at h
  by_cases hr : off = 0x28 ∨ off = 0x30 ∨ off = 0x38
  · simp [hr] at h
  by_cases hn : n ≠ 8 ∨ off % 8 ≠ 0
  · simp [hr, hn] at h
  have hn8 : n = 8 := by omega
  rw [if_neg hr, if_neg hn] at h
  by_cases h0 : off = 0x00
  · simp only [h0, if_true] at h
    exact .inr (.inl ⟨h0, hn8, h⟩)
  by_cases h1 : off = 0x08
  · simp only [h1] at h
    cases h
    exact .inl rfl
  by_cases h2 : off = 0x10
  · simp only [h2] at h
    obtain ⟨hb, ⟨-, rfl⟩ | ⟨-, h⟩⟩ := gatedWrite_next h
    · exact .inl rfl
    · cases h
      exact .inr (.inr (.inl ⟨h2, hn8, hb, rfl⟩))
  by_cases h3 : off = 0x18
  · simp only [h3] at h
    obtain ⟨hb, ⟨-, rfl⟩ | ⟨-, h⟩⟩ := gatedWrite_next h
    · exact .inl rfl
    · cases h
      exact .inr (.inr (.inr ⟨h3, hn8, hb, rfl⟩))
  by_cases h4 : off = 0x20
  · simp only [h4] at h
    cases h
    exact .inl rfl
  · simp [h0, h1, h2, h3, h4] at h

/-- What an acceptance that answers a next state has done, by the value's decoding: nothing while FATAL = 1, or one arm
of R101 on the cleared STATUS. -/
theorem acceptWord_next {v : Word64} (h : acceptWord v s = .next t) :
    s.status.busy = false ∧
      (s.status.fatal = true ∧ t = s ∨
        s.status.fatal = false ∧
          ((∃ e, decode v = .error e ∧
              t = raiseInvalidInput .malformedCommand { s with status := s.status.cleared, result := none }) ∨
            (decode v = .ok .nop ∧ t = startEngine .nop { s with status := s.status.cleared }) ∨
            (∃ W, decode v = .ok (invOf W) ∧ startInverse W { s with status := s.status.cleared } = .next t) ∨
            (∃ W, decode v = .ok (mulwOf W) ∧ startMultiply W { s with status := s.status.cleared } = .next t) ∨
            (∃ K, decode v = .ok (.trunc K) ∧ startTruncate K { s with status := s.status.cleared } = .next t))) := by
  unfold acceptWord at h
  cases hd : decode v with
  | error e =>
    rw [hd] at h
    obtain ⟨hb, hf | ⟨hf, h⟩⟩ := acceptCommand_next h
    · exact ⟨hb, .inl hf⟩
    · cases h
      exact ⟨hb, .inr ⟨hf, .inl ⟨e, rfl, rfl⟩⟩⟩
  | ok i =>
    rw [hd] at h
    cases i with
    | nop =>
      have h : acceptCommand (fun u => .next (startEngine .nop u)) s = .next t := h
      obtain ⟨hb, hf | ⟨hf, h⟩⟩ := acceptCommand_next h
      · exact ⟨hb, .inl hf⟩
      · cases h
        exact ⟨hb, .inr ⟨hf, .inr (.inl ⟨rfl, rfl⟩)⟩⟩
    | inv32 =>
      have h : acceptCommand (startInverse .w32) s = .next t := h
      obtain ⟨hb, hf | ⟨hf, h⟩⟩ := acceptCommand_next h
      · exact ⟨hb, .inl hf⟩
      · exact ⟨hb, .inr ⟨hf, .inr (.inr (.inl ⟨.w32, rfl, h⟩))⟩⟩
    | inv64 =>
      have h : acceptCommand (startInverse .w64) s = .next t := h
      obtain ⟨hb, hf | ⟨hf, h⟩⟩ := acceptCommand_next h
      · exact ⟨hb, .inl hf⟩
      · exact ⟨hb, .inr ⟨hf, .inr (.inr (.inl ⟨.w64, rfl, h⟩))⟩⟩
    | mulw32 =>
      have h : acceptCommand (startMultiply .w32) s = .next t := h
      obtain ⟨hb, hf | ⟨hf, h⟩⟩ := acceptCommand_next h
      · exact ⟨hb, .inl hf⟩
      · exact ⟨hb, .inr ⟨hf, .inr (.inr (.inr (.inl ⟨.w32, rfl, h⟩)))⟩⟩
    | mulw64 =>
      have h : acceptCommand (startMultiply .w64) s = .next t := h
      obtain ⟨hb, hf | ⟨hf, h⟩⟩ := acceptCommand_next h
      · exact ⟨hb, .inl hf⟩
      · exact ⟨hb, .inr ⟨hf, .inr (.inr (.inr (.inl ⟨.w64, rfl, h⟩)))⟩⟩
    | trunc K =>
      have h : acceptCommand (startTruncate K) s = .next t := h
      obtain ⟨hb, hf | ⟨hf, h⟩⟩ := acceptCommand_next h
      · exact ⟨hb, .inl hf⟩
      · exact ⟨hb, .inr ⟨hf, .inr (.inr (.inr (.inr ⟨K, rfl, h⟩)))⟩⟩

/-! Host actions. -/

theorem hostRead_next {off n : Nat} (h : hostRead off n s = .next t) :
    ∃ v, memRead off n s = .next v ∧ t = { s with busData := some v } := by
  unfold hostRead at h
  cases hm : memRead off n s with
  | next v =>
    rw [hm] at h
    cases h
    exact ⟨v, rfl, rfl⟩
  | fault r =>
    rw [hm] at h
    cases h
  | refused r =>
    rw [hm] at h
    cases h

/-- A host action that answers a next state wrote the window, reset the block, or changed only what the host itself holds. -/
theorem hostAction_next {act : HostAction} (h : hostAction act s = .next t) :
    (∃ off n v, act = .write off n v ∧ memWrite off n v s = .next t) ∨
      (act = .reset ∧ t = resetBlock s) ∨
      (∃ d p, t = { s with busData := d, program := p }) := by
  cases act with
  | read off n =>
    obtain ⟨v, -, rfl⟩ := hostRead_next h
    exact .inr (.inr ⟨some v, s.program, rfl⟩)
  | write off n v => exact .inl ⟨off, n, v, rfl, h⟩
  | reset =>
    cases h
    exact .inr (.inl ⟨rfl, rfl⟩)
  | wait =>
    cases h
    exact .inr (.inr ⟨_, _, rfl⟩)
  | readIfDone off n =>
    unfold hostAction at h
    dsimp only at h
    split at h
    · obtain ⟨v, -, rfl⟩ := hostRead_next h
      exact .inr (.inr ⟨some v, s.program, rfl⟩)
    · cases h
      exact .inr (.inr ⟨s.busData, s.program, rfl⟩)

/-! The step. -/

/-- A step is stuck or the scheduler's turn. -/
theorem step_of_noStepLeft (h : noStepLeft s = true) : step s = .fault .stuck := if_pos h

theorem step_of_stepLeft (h : noStepLeft s = false) : step s = scheduledStep s := if_neg (by simp [h])

theorem noStepLeft_iff :
    noStepLeft s = true ↔ s.status.busy = false ∧ s.program = [] ∧ ∀ t ∈ s.schedule, t.reset = false := by
  simp [noStepLeft, and_assoc]

/-- A step that answers a next state is the reset, a pass, an engine step, or an action of the host. -/
theorem step_next (h : step s = .next t) :
    (∃ p q, moveOf s = .reset ∧ t = { resetBlock s with schedule := p :: q }) ∨
      (∃ q, moveOf s = .pass ∧ t = { s with schedule := q }) ∨
      (∃ q, moveOf s = .engine ∧ s.status.busy = true ∧ engineStep { s with schedule := q } = .next t) ∨
      (∃ act p q, moveOf s = .host act ∧ s.program = act :: p ∧
        hostAction act { s with schedule := q, program := p } = .next t) := by
  cases hn : noStepLeft s
  swap
  · rw [step_of_noStepLeft hn] at h
    cases h
  rw [step_of_stepLeft hn] at h
  unfold scheduledStep at h
  unfold moveOf
  rw [if_neg (by simp [hn])]
  clear hn
  cases hs : s.schedule with
  | nil =>
    rw [hs] at h
    dsimp only at h ⊢
    cases hb : s.status.busy
    · simp only [hb, Bool.false_eq_true, if_false] at h ⊢
      unfold hostStep at h
      cases hp : s.program with
      | nil =>
        rw [hp] at h
        cases h
      | cons act p =>
        rw [hp] at h
        refine .inr (.inr (.inr ⟨act, p, s.schedule, by trivial, by trivial, h⟩))
    · simp only [hb, if_true] at h ⊢
      exact .inr (.inr (.inl ⟨s.schedule, by trivial, by trivial, h⟩))
  | cons r q =>
    rw [hs] at h
    dsimp only at h ⊢
    cases hr : r.reset
    · simp only [hr, Bool.false_eq_true, if_false] at h ⊢
      unfold agentTurn at h
      cases ha : r.agent
      · rw [ha] at h
        dsimp only at h ⊢
        cases hp : s.program with
        | nil =>
          simp only [hp, List.isEmpty_nil, if_true] at h
          cases h
          exact .inr (.inl ⟨q, by trivial, by rw [← hp]⟩)
        | cons act p =>
          simp only [hp, List.isEmpty_cons, Bool.false_eq_true, if_false] at h
          exact .inr (.inr (.inr ⟨act, p, q, by trivial, by trivial, h⟩))
      · rw [ha] at h
        dsimp only at h ⊢
        cases hb : s.status.busy
        · simp only [hb, Bool.false_eq_true, if_false] at h ⊢
          cases h
          exact .inr (.inl ⟨q, by trivial, rfl⟩)
        · simp only [hb, if_true] at h ⊢
          exact .inr (.inr (.inl ⟨q, by trivial, by trivial, h⟩))
    · simp only [hr, if_true] at h ⊢
      cases h
      exact .inl ⟨_, q, by trivial, rfl⟩

end Sys2Proof.Machine
end

