-- ==== Sys2Proof/Tests/Slice0.lean ====
section
/-! SUPPORT. The model's own tests: expected results from the spec's encodings (30_encoding) and test vectors (95_test_vectors), and a witness for the hypotheses of each statement. -/

namespace Sys2Proof.Tests

open Sys2Proof.Machine

/-! States to test on. -/

/-- After reset and `wr OPERAND_A, a`. -/
def withA (a : Word64) : State := { State.reset with operandA := some a }

/-- After reset and both operand writes. -/
def withAB (a b : Word64) : State := { State.reset with operandA := some a, operandB := some b }

/-- An INV in progress in phase Inv(i), with operand and approximation given. -/
def inInv (W : Width) (a x : Word64) (i : Nat) : State :=
  { State.reset with
    status := Status.inProgress, operandA := some a, phase := .inv i, engW := W, engAW := a, engX := x }

/-- A NOP, MULW or TRUNC in progress, with the latched values given. -/
def inProgress (p : Phase) (W : Width) (a b : Word64) (k : Nat) : State :=
  { State.reset with status := Status.inProgress, phase := p, engW := W, engAW := a, engBW := b, engK := k }

/-- Halted after a failed checkpoint 1. -/
def halted : State :=
  { State.reset with
    status := { busy := false, done := false, err := false, fatal := true, cause := .internalInvariant, stage := 1 }
    phase := .halted }

/-- A turn without reset. -/
def turnOf (a : Agent) : Turn := { agent := a, reset := false }

/-- A state with the next turn and the host's next actions given. -/
def scheduled (s : State) (q : List Turn) (p : List HostAction) : State := { s with schedule := q, program := p }

/-- What a host would read in STATUS, and RESULT, after a step. -/
def statusResult (o : Host.Outcome State Fault Refusal) : Option (Word64 × Option Word64) :=
  (stateOf o).map fun t => (t.status.toWord, t.result)

/-- What a host read returns, if it returns a value. -/
def valueOf (o : Host.Outcome Word64 Fault Refusal) : Option Word64 :=
  match o with
  | .next v => some v
  | .fault _ => none
  | .refused _ => none

/-- The instruction decoded, if any. -/
def decoded (v : Word64) : Option Instr :=
  match decode v with
  | .ok i => some i
  | .error _ => none

/-- The reason a value is refused, if it is. -/
def refusedBecause (v : Word64) : Option DecodeError :=
  match decode v with
  | .ok _ => none
  | .error e => some e

theorem not_ok_of_refused {v : Word64} {e : DecodeError} (h : refusedBecause v = some e) : ∀ i, decode v ≠ .ok i := by
  intro i hi
  rw [refusedBecause, hi] at h
  cases h

/-! Well-formedness: K ≤ 64 is its one check (R84). -/

theorem test_wf_trunc_64 : (Instr.trunc 64).wf = true := by decide
theorem test_wf_trunc_65_refused : (Instr.trunc 65).wf = false := by decide
theorem test_wf_trunc_127_refused : (Instr.trunc 127).wf = false := by decide

/-! Decoding of words written out bit by bit: RSVH, RSV1, K, RSV0, WSEL, OPC (R81, R86). -/

theorem test_decode_nop :
    decoded 0b00000000000000000000000000000000_00000000000000000_0000000_000_0_0000 = some .nop := by decide
theorem test_decode_inv32 :
    decoded 0b00000000000000000000000000000000_00000000000000000_0000000_000_0_0001 = some .inv32 := by decide
theorem test_decode_inv64 :
    decoded 0b00000000000000000000000000000000_00000000000000000_0000000_000_1_0001 = some .inv64 := by decide
theorem test_decode_mulw32 :
    decoded 0b00000000000000000000000000000000_00000000000000000_0000000_000_0_0010 = some .mulw32 := by decide
theorem test_decode_mulw64 :
    decoded 0b00000000000000000000000000000000_00000000000000000_0000000_000_1_0010 = some .mulw64 := by decide
theorem test_decode_trunc_32 :
    decoded 0b00000000000000000000000000000000_00000000000000000_0100000_000_0_0011 = some (.trunc 32) := by decide
theorem test_decode_trunc_64 :
    decoded 0b00000000000000000000000000000000_00000000000000000_1000000_000_0_0011 = some (.trunc 64) := by decide

/-! The encoder against the examples of R86 and R89. -/

theorem test_encode :
    encode .nop = 0x0000_0000 ∧ encode .inv32 = 0x0000_0001 ∧ encode .inv64 = 0x0000_0011 ∧
      encode .mulw32 = 0x0000_0002 ∧ encode .mulw64 = 0x0000_0012 ∧ encode (.trunc 0) = 0x0000_0003 ∧
      encode (.trunc 32) = 0x0000_2003 ∧ encode (.trunc 64) = 0x0000_4003 := by decide

/-! The malformed values of 95_test_vectors 2.6 (V-MAL-01 to V-MAL-10), by name of R87's case. -/

theorem test_malformed_opcode : refusedBecause 0x4 = some .reservedOpcode ∧ refusedBecause 0xF = some .reservedOpcode := by decide
theorem test_malformed_wsel :
    refusedBecause 0x10 = some .wselNotAllowed ∧ refusedBecause 0x13 = some .wselNotAllowed := by decide
theorem test_malformed_k : refusedBecause 0x100 = some .kNotAllowed ∧ refusedBecause 0x101 = some .kNotAllowed := by decide
theorem test_malformed_k_range :
    refusedBecause 0x4103 = some .kTooLarge ∧ refusedBecause 0x7F03 = some .kTooLarge := by decide
theorem test_malformed_reserved_bits :
    refusedBecause 0x1_0000_0001 = some .reservedBits ∧ refusedBecause 0x21 = some .reservedBits ∧
      refusedBecause 0x8001 = some .reservedBits := by decide

/-! Bytes, lowest address first (R53), and the opcode table's own words. -/

/-- The command read from bytes, with how many bytes are left over. -/
def decodedBytes (bs : List Byte) : Option (Instr × Nat) :=
  match decodeBytes bs with
  | .ok (i, rest) => some (i, rest.length)
  | .error _ => none

theorem test_bytes : decodedBytes [0x03, 0x20, 0, 0, 0, 0, 0, 0, 0xAA] = some (.trunc 32, 1) := by decide
theorem test_bytes_short : decodedBytes [0x03, 0x20, 0, 0] = none := by decide
theorem test_table_words :
    decodeTableWord 64 0x11 = some .inv64 ∧ decodeTableWord 64 0x2003 = some (.trunc 32) ∧
      decodeTableWord 64 0x4103 = none := by decide

/-! STATUS words (95_test_vectors, the table at its head; R24). -/

theorem test_status_words :
    Status.zero.toWord = 0x00 ∧ Status.inProgress.toWord = 0x01 ∧ Status.succeeded.toWord = 0x02 ∧
      Status.evenOperandError.toWord = 0x14 ∧ Status.malformedError.toWord = 0x24 ∧ halted.status.toWord = 0x138 := by
  decide

/-! NOP (V-NOP-02): RESULT is kept. -/

theorem test_nop_accept :
    statusResult (exec .nop { withA 3 with result := some 0x2345_6789 }) = some (0x01, some 0x2345_6789) := by decide
theorem test_nop_complete :
    statusResult (engineStep { inProgress .nop .w32 0 0 0 with result := some 0x2345_6789 }) =
      some (0x02, some 0x2345_6789) := by decide

/-! INV: V-INV-07 and V-INV-10 at acceptance; V-INV-T2 and V-INV-T1 at an update; V-INV-06 and V-INV-26 at the end. -/

theorem test_inv32_truncates :
    (stateOf (exec .inv32 (withA 0xFFFF_FFFF_FFFF_FFFF))).map (fun t => (t.engX, t.phase)) =
      some (0xFFFF_FFFF, .inv 0) := by decide
theorem test_inv32_even : statusResult (exec .inv32 (withA 0x1_0000_0000)) = some (0x14, none) := by decide
theorem test_inv64_even : statusResult (exec .inv64 (withA 0x1_0000_0000)) = some (0x14, none) := by decide
theorem test_inv64_unwritten : faultOf (exec .inv64 State.reset) = some .operandUnwritten := by decide
theorem test_update_32 :
    (stateOf (engineStep (inInv .w32 3 3 0))).map (fun t => (t.engX, t.phase)) = some (0xFFFF_FFEB, .inv 1) := by decide
theorem test_update_64 :
    (stateOf (engineStep (inInv .w64 3 0xFFFF_AAAA_AAAA_AAAB 4))).map (fun t => (t.engX, t.phase)) =
      some (0xAAAA_AAAA_AAAA_AAAB, .inv 5) := by decide
theorem test_inv32_result :
    statusResult (engineStep (inInv .w32 0xDEAD_BEEF 0x904B_300F 4)) = some (0x02, some 0x904B_300F) := by decide
theorem test_inv64_result :
    statusResult (engineStep (inInv .w64 0xDEAD_BEEF 0xE102_F06B_904B_300F 6)) =
      some (0x02, some 0xE102_F06B_904B_300F) := by decide

/-- 95_test_vectors 2.3: what a failed checkpoint 1 reports, here by a wrong approximation put into the engine. -/
theorem test_checkpoint_failure : statusResult (engineStep (inInv .w64 3 3 1)) = some (0x138, none) := by decide

/-! MULW: V-MUL-03, V-MUL-02, V-MUL-08 and V-MUL-10. -/

theorem test_mulw32_truncates :
    (stateOf (exec .mulw32 (withAB 0x1_0000_0003 5))).map (fun t => (t.engAW, t.engBW)) = some (3, 5) := by decide
theorem test_mulw32_wraps :
    statusResult (engineStep (inProgress .mul .w32 0x1_0000 0x1_0000 0)) = some (0x02, some 0) := by decide
theorem test_mulw64_product :
    statusResult (engineStep (inProgress .mul .w64 0xDEAD_BEEF 0xE102_F06B_904B_300F 0)) = some (0x02, some 1) := by decide
theorem test_mulw64_unwritten :
    faultOf (exec .mulw64 { State.reset with operandB := some 5 }) = some .operandUnwritten := by decide

/-! TRUNC: V-TR-05 at the engine step, V-TR-06 at acceptance (all 64 bits latched), V-TR-09. -/

theorem test_trunc_63 :
    statusResult (engineStep (inProgress .trunc .w32 0xFFFF_FFFF_FFFF_FFFF 0 63)) =
      some (0x02, some 0x7FFF_FFFF_FFFF_FFFF) := by decide
theorem test_trunc_64_latches :
    (stateOf (exec (.trunc 64) (withA 0xFFFF_FFFF_FFFF_FFFF))).map (fun t => (t.engAW, t.engK)) =
      some (0xFFFF_FFFF_FFFF_FFFF, 64) := by decide
theorem test_trunc_65_malformed : statusResult (memWrite 0x00 8 0x4103 (withA 3)) = some (0x24, none) := by decide

/-! Window accesses: V-ACC-01 to V-ACC-14. -/

theorem test_reads_at_reset :
    valueOf (memRead 0x08 8 State.reset) = some 0 ∧ valueOf (memRead 0x00 8 State.reset) = some 0 ∧
      faultOf (memRead 0x20 8 State.reset) = some .readInvalidResult ∧
      faultOf (memRead 0x10 8 State.reset) = some .readUnwritten := by decide
theorem test_refused_accesses :
    refusalOf (memRead 0x08 4 State.reset) = some .narrowOrMisalignedAccess ∧
      refusalOf (memRead 0x0C 8 State.reset) = some .narrowOrMisalignedAccess ∧
      refusalOf (memRead 0x28 8 State.reset) = some .reservedOffset ∧
      faultOf (memRead 0x40 8 State.reset) = some .outsideWindow := by decide
theorem test_accesses_while_busy :
    refusalOf (memWrite 0x10 8 5 (inInv .w64 3 3 0)) = some .hostWriteWhileBusy ∧
      valueOf (memRead 0x10 8 (inInv .w64 3 3 0)) = some 3 ∧
      faultOf (memRead 0x20 8 (inInv .w64 3 3 0)) = some .readInvalidResult := by decide
theorem test_write_while_fatal : stateOf (memWrite 0x00 8 0 halted) = some halted := by decide
theorem test_reset_abandons :
    (stateOf (hostAction .reset (inInv .w64 3 3 0))).map (fun t => (t.status.toWord, t.phase, t.operandA)) =
      some (0, .idle, none) := by decide

/-! Steps of the two agents, and a placed command word run as the first instruction after reset. -/

theorem test_placed_word :
    (stateOf (step (State.reset.withFetchWord 64 0x12))).map (fun t => (t.phase, t.engW)) = some (.mul, .w64) := by decide
theorem test_wait_repeats :
    (stateOf (step (scheduled (inInv .w64 3 3 0) [turnOf .host] [.wait, .read 0x20 8]))).map
      (fun t => (t.busData, t.program)) = some (some 1, [.wait, .read 0x20 8]) := by decide
theorem test_reset_before_turn :
    (stateOf (step (scheduled (inInv .w64 3 3 0) [{ agent := .engine, reset := true }] []))).map
      (fun t => (t.phase, t.schedule)) = some (.idle, [turnOf .engine]) := by decide

/-- R14: turns left do not help where no agent has an enabled step, but a reset to come does. -/
theorem test_stuck_with_turns_left :
    faultOf (step (scheduled State.reset [turnOf .engine, turnOf .host] [])) = some .stuck ∧
      (stateOf (step (scheduled halted [turnOf .host, { agent := .host, reset := true }] []))).map (fun t => t.phase) =
        some .halted := by decide

/-- R91: the expansion of `inverse.64 $x, 3`. -/
theorem test_expand_inverse :
    Pseudo.expand (.inverse .w64 3) =
      [.write 0x10 8 3, .write 0x00 8 0x11, .wait, .read 0x08 8, .readIfDone 0x20 8] := by decide

/-! Witnesses: for each statement with hypotheses, inputs that meet them, clause by clause at boundary values. -/

theorem witness_MnemonicValues : (0 : BitVec 7).toNat ≤ 64 ∧ (64 : BitVec 7).toNat ≤ 64 := by decide

theorem witness_WellFormedRowsMatchExactly : decode 0x4003 = .ok (.trunc 64) ∧ decode 0x0003 = .ok (.trunc 0) := ⟨rfl, rfl⟩

theorem witness_MalformedExactlyWhenNoRowMatches :
    (∀ i, decode 0x4 ≠ .ok i) ∧ (∀ i, decode 0xF ≠ .ok i) ∧ (∀ i, decode 0x8000_0000_0000_0000 ≠ .ok i) ∧
      (∀ i, decode 0x4103 ≠ .ok i) ∧ Ready State.reset :=
  ⟨not_ok_of_refused (e := .reservedOpcode) (by decide), not_ok_of_refused (e := .reservedOpcode) (by decide),
    not_ok_of_refused (e := .reservedBits) (by decide), not_ok_of_refused (e := .kTooLarge) (by decide), by decide⟩

theorem witness_DecodeOfEncode :
    Instr.inv64.wf = true ∧ (Instr.trunc 0).wf = true ∧ (Instr.trunc 64).wf = true := by decide

theorem witness_EncodeOfDecode : decode 0x11 = .ok .inv64 ∧ decode 0x4003 = .ok (.trunc 64) := ⟨rfl, rfl⟩

theorem witness_WidthAndCountFields :
    Ready (withAB 3 5) ∧
      (∃ t, memWrite 0x00 8 0x01 (withAB 3 5) = .next t ∧ decode 0x01 = .ok .inv32 ∧ t.status.busy = true) ∧
      (∃ t, memWrite 0x00 8 0x12 (withAB 3 5) = .next t ∧ decode 0x12 = .ok .mulw64 ∧ t.status.busy = true) ∧
      (∃ t, memWrite 0x00 8 0x4003 (withAB 3 5) = .next t ∧ decode 0x4003 = .ok (.trunc 64)) ∧
      (∃ t, memWrite 0x00 8 0x4103 (withAB 3 5) = .next t ∧ 65 ≤ ((0x4103 : Word64).extractLsb' 8 7).toNat) :=
  ⟨by decide, ⟨_, rfl, rfl, rfl⟩, ⟨_, rfl, rfl, rfl⟩, ⟨_, rfl, rfl⟩, ⟨_, rfl, by decide⟩⟩

theorem witness_StepRunsDecodedCommand :
    decode 0x11 = .ok .inv64 ∧
      (scheduled (withA 3) [turnOf .host] [.write 0x00 8 0x11]).program = .write 0x00 8 0x11 :: [] ∧
      (scheduled (withA 3) [turnOf .host] []).schedule = { agent := .host, reset := false } :: [] ∧
      (scheduled (withA 3) [] [.write 0x00 8 0x11]).schedule = [] ∧ (withA 3).status.busy = false ∧
      decodeTableWord 64 0x11 = some .inv64 := ⟨rfl, rfl, rfl, rfl, rfl, by decide⟩

theorem witness_StepTakesTheScheduledMove :
    moveOf (scheduled (inInv .w64 3 3 0) [turnOf .engine] []) = .engine ∧
      moveOf (scheduled (withA 3) [] [.reset]) = .host .reset ∧
      moveOf (scheduled (withA 3) [{ agent := .host, reset := true }] []) = .reset ∧
      moveOf (scheduled (withA 3) [turnOf .engine] [.reset]) = .pass ∧ moveOf State.reset = .stuck := by decide

theorem witness_ResetEffectAndOnlyExit :
    Consistent halted ∧ halted.phase = .halted ∧ Consistent (scheduled halted [turnOf .engine] [.reset]) ∧
      (∃ t, step (scheduled halted [turnOf .engine] [.reset]) = .next t) ∧
      (∃ t, step (scheduled halted [] [.reset]) = .next t ∧ t.phase = .idle) ∧
      Consistent (scheduled halted [] [.reset]) :=
  ⟨by decide, rfl, by decide, ⟨_, rfl⟩, ⟨_, rfl, rfl⟩, by decide⟩

theorem witness_ResetComesFirstAndAbandons :
    (scheduled (inInv .w64 3 3 0) [{ agent := .engine, reset := true }] []).schedule =
      { agent := .engine, reset := true } :: [] := rfl

theorem witness_ByteLanesLittleEndian :
    (0 < 8 ∧ 7 < 8) ∧ byteAddress Reg.cmd.offset 7 = byteAddress Reg.cmd.offset 7 := ⟨by decide, rfl⟩

theorem witness_ReadsOfTheWindow :
    (withAB 3 5).operandA = some 3 ∧ (withAB 3 5).operandB = some 5 ∧ State.reset.operandA = none ∧
      State.reset.operandB = none ∧ ({ State.reset with result := some 7 } : State).result = some 7 ∧
      State.reset.result = none ∧ memRead 0x08 8 State.reset = .next 0 := ⟨rfl, rfl, rfl, rfl, rfl, rfl, rfl⟩

theorem witness_ReservedOffsetsRefused : (0x28 = 0x28 ∨ 0x28 = 0x30 ∨ 0x28 = 0x38) ∧ (0x38 = 0x28 ∨ 0x38 = 0x30 ∨ 0x38 = 0x38) := by
  decide

/-- A narrow access, a misaligned one, and the first offsets beyond the window. -/
theorem witness_NarrowOrMisalignedRefused :
    (4 ≠ 8 ∨ 0x08 % 8 ≠ 0) ∧ (8 ≠ 8 ∨ 0x0C % 8 ≠ 0) ∧ (8 = 8 ∧ 0x40 % 8 = 0 ∧ 0x40 ≤ 0x40) ∧
      (0x08 ≠ 0x28 ∧ 0x08 ≠ 0x30 ∧ 0x08 ≠ 0x38) ∧ (0x40 ≠ 0x28 ∧ 0x40 ≠ 0x30 ∧ 0x40 ≠ 0x38) := by decide

theorem witness_WritesOfTheWindow :
    (inInv .w64 3 3 0).status.busy = true ∧ (halted.status.busy = false ∧ halted.status.fatal = true) ∧
      Ready State.reset ∧ (0x08 = 0x08 ∨ 0x08 = 0x20) := by decide

theorem witness_BusyRefusesWrites :
    (inInv .w64 3 3 0).status.busy = true ∧ Consistent (inInv .w64 3 3 0) ∧ (inInv .w64 3 3 0).phase ≠ .nop := by decide

theorem witness_FatalBlocksWrites :
    Consistent halted ∧ halted.status.fatal = true ∧ halted.operandA = none ∧ halted.operandB = none ∧
      Consistent { halted with operandA := some 3, operandB := some 5 } :=
  ⟨by decide, by decide, by decide, by decide, by decide⟩

theorem witness_HostReadsDoNotDisturb :
    (∃ t, hostAction (.read 0x08 8) (inInv .w64 3 3 0) = .next t) ∧ (∃ t, hostAction .wait (inInv .w64 3 3 0) = .next t) ∧
      (∃ t, hostAction (.readIfDone 0x20 8) State.reset = .next t) ∧
      (∀ off n v, HostAction.read 0x08 8 ≠ .write off n v) ∧ HostAction.read 0x08 8 ≠ .reset :=
  ⟨⟨_, rfl⟩, ⟨_, rfl⟩, ⟨_, rfl⟩, by simp, by simp⟩

theorem witness_WaitPollsStatus : (inInv .w64 3 3 0).status.busy = true ∧ State.reset.status.busy = false := by decide

theorem witness_AcceptanceGate :
    (inInv .w64 3 3 0).status.busy = true ∧ (halted.status.busy = false ∧ halted.status.fatal = true) ∧
      Ready State.reset := by decide

theorem witness_AcceptancePseudocode :
    Ready (withAB 3 5) ∧ (∀ i, decode 0x4 ≠ .ok i) ∧ decode 0x0 = .ok .nop ∧
      (decode 0x1 = .ok (invOf .w32) ∧ State.reset.operandA = none ∧ (withAB 4 5).operandA = some 4 ∧
        ((4 : Word64).toNat % 2 ^ Width.w32.bits) % 2 = 0 ∧ (withAB 3 5).operandA = some 3 ∧
        ((3 : Word64).toNat % 2 ^ Width.w32.bits) % 2 = 1) ∧
      (decode 0x12 = .ok (mulwOf .w64) ∧ (withAB 3 5).operandB = some 5) ∧ decode 0x4003 = .ok (.trunc 64) :=
  ⟨by decide, not_ok_of_refused (e := .reservedOpcode) (by decide), rfl, ⟨rfl, rfl, rfl, by decide, rfl, by decide⟩,
    ⟨rfl, rfl⟩, rfl⟩

theorem witness_DecodeBeforeOperands : Ready State.reset ∧ ∀ i, decode 0x7F03 ≠ .ok i :=
  ⟨by decide, not_ok_of_refused (e := .kTooLarge) (by decide)⟩

theorem witness_InvalidInputEndsAtAcceptance :
    Consistent (withA 2) ∧ Ready (withA 2) ∧
      (∃ t, memWrite 0x00 8 0x1 (withA 2) = .next t ∧ t.status.err = true) ∧
      ∃ t, memWrite 0x00 8 0x4 (withA 2) = .next t ∧ t.status.err = true :=
  ⟨by decide, by decide, ⟨_, rfl, rfl⟩, ⟨_, rfl, rfl⟩⟩

theorem witness_EngineEnabledExactlyWhenBusy :
    Consistent (inInv .w64 3 3 0) ∧ Consistent halted ∧ halted.phase = .halted ∧ State.reset.phase = .idle :=
  ⟨by decide, by decide, by decide, by decide⟩

theorem witness_EngineStepFrame :
    (∃ t, engineStep (inInv .w64 3 3 0) = .next t ∧ t.status.busy = true) ∧
      ∃ t, engineStep (inProgress .mul .w32 3 5 0) = .next t :=
  ⟨⟨_, rfl, by decide⟩, ⟨_, rfl⟩⟩

theorem witness_EngineReadsOnlyLatches : ∃ t, engineStep (inInv .w64 3 3 0) = .next t := ⟨_, rfl⟩

theorem witness_NopAcceptsAndCompletes :
    Ready State.reset ∧ (halted.status.busy = false ∧ halted.status.fatal = true) ∧
      ((0x10 : Word64).extractLsb' 0 4 = 0 ∧ (0x10 : Word64) ≠ 0) := by decide

/-- A middle phase, the last one, and a failed check. -/
theorem witness_InvPhasesInOrder :
    (Consistent (inInv .w32 3 3 0) ∧ ∃ t, engineStep (inInv .w32 3 3 0) = .next t ∧ t.phase = .inv 1) ∧
      (Consistent (inInv .w32 3 0xAAAA_AAAB 4) ∧ ∃ t, engineStep (inInv .w32 3 0xAAAA_AAAB 4) = .next t ∧ t.phase = .idle) ∧
      (Consistent (inInv .w32 3 3 1) ∧ ∃ t, engineStep (inInv .w32 3 3 1) = .next t ∧ t.phase = .halted) :=
  ⟨⟨by decide, ⟨_, rfl, by decide⟩⟩, ⟨by decide, ⟨_, rfl, by decide⟩⟩, ⟨by decide, ⟨_, rfl, by decide⟩⟩⟩

theorem witness_CommandEndsWithinBound :
    (Consistent (inInv .w64 3 3 0) ∧ (inInv .w64 3 3 0).status.busy = true) ∧
      (Consistent (inProgress .nop .w32 0 0 0) ∧ (inProgress .nop .w32 0 0 0).status.busy = true) :=
  ⟨by decide, by decide⟩

/-- An even operand, an odd one, an update, a failed checkpoint and the last phase. -/
theorem witness_InvFollowsItsRule :
    (Ready (withA 2) ∧ (withA 2).operandA = some 2 ∧ (2 : Word64).toNat % 2 = 0) ∧
      (Ready (withA 3) ∧ (withA 3).operandA = some 3 ∧ (3 : Word64).toNat % 2 = 1) ∧
      ((inInv .w32 3 3 0).phase = .inv 0 ∧ (inInv .w32 3 3 0).engX.toNat = 3 ∧
        3 * 3 % 2 ^ Width.w32.bits % 2 ^ min (3 * 2 ^ 0) Width.w32.bits = 1) ∧
      3 * 3 % 2 ^ Width.w32.bits % 2 ^ min (3 * 2 ^ 1) Width.w32.bits ≠ 1 ∧
      0xAAAA_AAAB * 3 % 2 ^ Width.w32.bits % 2 ^ min (3 * 2 ^ 4) Width.w32.bits = 1 := by decide

theorem witness_InvResult : Ready (withA 3) ∧ (withA 3).operandA = some 3 ∧ (3 : Word64).toNat % 2 = 1 := by decide

theorem witness_InitialPrecision :
    5 % 2 = 1 ∧ Ready (withA 5) ∧ (withA 5).operandA = some 5 ∧ (5 : Word64).toNat % 2 = 1 := by decide

theorem witness_PrecisionDoubles :
    3 % 2 = 1 ∧ 3 < 2 ^ Width.w32.bits ∧ 3 ≤ Width.w32.bits ∧ 3 * 3 % 2 ^ 3 = 1 := by decide

theorem witness_NoCheckpointFails :
    (3 < 2 ^ Width.w32.bits ∧ 3 % 2 = 1 ∧ 4 ≤ updates .w32) ∧ (3 ≤ updates .w32 ∧ 3 * 2 ^ 3 < Width.w32.bits) ∧
      (4 ≤ updates .w64 ∧ 3 * 2 ^ 4 < Width.w64.bits) := by decide

theorem witness_InverseUniqueAndReturned :
    Ready (withA 0xDEAD_BEEF) ∧ (withA 0xDEAD_BEEF).operandA = some 0xDEAD_BEEF ∧ (0xDEAD_BEEF : Word64).toNat % 2 = 1 ∧
      (0x904B_300F < 2 ^ Width.w32.bits ∧ (0xDEAD_BEEF : Word64).toNat * 0x904B_300F % 2 ^ Width.w32.bits = 1) := by decide

theorem witness_WidthsAgree :
    Ready (withA 3) ∧ Ready (withAB 3 5) ∧ (withA 3).operandA = some 3 ∧ (withAB 3 5).operandA = some 3 ∧
      (3 : Word64).toNat % 2 = 1 := by decide

theorem witness_InvCornerCases :
    (Ready (withA 1) ∧ (withA 1).operandA = some 1) ∧ (0xFFFF_FFFF : Word64).toNat % 2 ^ Width.w32.bits = 2 ^ Width.w32.bits - 1 ∧
      (0 : Word64).toNat % 2 = 0 ∧
      ((0x1_0000_0003 : Word64).toNat % 2 ^ Width.w32.bits = (3 : Word64).toNat % 2 ^ Width.w32.bits ∧
        (3 : Word64).toNat % 2 = 1) := by decide

theorem witness_MulwFollowsItsRule :
    (Ready (withA 3) ∧ (withA 3).operandB = none) ∧ (Ready (withAB 3 5) ∧ (withAB 3 5).operandA = some 3 ∧ (withAB 3 5).operandB = some 5) ∧
      (withAB 3 0xAAAA_AAAA_AAAA_AAAB).operandB = some 0xAAAA_AAAA_AAAA_AAAB := by decide

theorem witness_MulwCornerCases :
    (Ready (withAB 0 5) ∧ (withAB 0 5).operandA = some 0 ∧ (withAB 0 5).operandB = some 5) ∧
      (withAB 0x1_0000 0x1_0000).operandA = some 0x1_0000 ∧
      (0xFFFF_FFFF : Word64).toNat % 2 ^ Width.w32.bits = 2 ^ Width.w32.bits - 1 := by decide

theorem witness_ProductCheck : Ready (withA 3) ∧ (withA 3).operandA = some 3 ∧ (3 : Word64).toNat % 2 = 1 := by decide

theorem witness_TruncFollowsItsRule :
    ((64 : BitVec 7).toNat ≤ 64 ∧ Ready (withA 3) ∧ (withA 3).operandA = some 3) ∧ (Ready State.reset ∧ State.reset.operandA = none) ∧
      ((0x4103 : Word64).extractLsb' 0 4 = 3 ∧ 64 < ((0x4103 : Word64).extractLsb' 8 7).toNat) ∧
      (withA 0x1_2345_6789).operandA = some 0x1_2345_6789 := by decide

theorem witness_TruncCornerCases :
    (0 : BitVec 7).toNat ≤ 64 ∧ (64 : BitVec 7).toNat ≤ 64 ∧ Ready (withA 3) ∧ (withA 3).operandA = some 3 := by decide

theorem witness_EvenOperandOnlyFromInv :
    (Ready (withA 2) ∧ (withA 2).operandA = some 2 ∧ ((2 : Word64).toNat % 2 ^ Width.w32.bits) % 2 = 0) ∧
      ∃ t, exec .inv32 (withA 2) = .next t ∧ t.status.cause = .evenOperand := ⟨by decide, ⟨_, rfl, rfl⟩⟩

theorem witness_InvariantViolationReport :
    ((inInv .w64 3 3 1).phase = .inv 1 ∧ mask (threshold .w64 1) (mulMod .w64 3 3 : Int) ≠ 1) ∧
      (∃ t, step (scheduled (inInv .w64 3 3 1) [turnOf .engine] []) = .next t ∧ t.status.fatal = true) ∧
      (inInv .w64 3 3 1).status.fatal = false ∧ Consistent (scheduled (inInv .w64 3 3 1) [turnOf .engine] []) :=
  ⟨by decide, ⟨_, rfl, by decide⟩, rfl, by decide⟩

theorem witness_ReportPriority :
    (Ready State.reset ∧ (∀ i, decode 0x4 ≠ .ok i) ∧ State.reset.operandA = none ∧ State.reset.operandB = none) ∧
      (Ready (withA 2) ∧ (withA 2).operandA = some 2 ∧ (2 : Word64).toNat % 2 = 0) ∧
      ((inInv .w32 3 3 4).phase = .inv 4 ∧ 4 = updates .w32 ∧ mask (threshold .w32 4) (mulMod .w32 3 3 : Int) ≠ 1 ∧
        mulMod .w32 3 3 ≠ 1) :=
  ⟨⟨by decide, not_ok_of_refused (e := .reservedOpcode) (by decide), rfl, rfl⟩, by decide, by decide⟩

theorem witness_AcceptanceErasesStatus :
    Ready State.reset ∧ Status.malformedError.busy = false ∧ Status.malformedError.fatal = false := by decide

theorem witness_StatusLayout : Consistent State.reset ∧ State.reset.status.cause ≠ .internalInvariant ∧ Consistent halted :=
  ⟨by decide, by decide, by decide⟩

/-- A consistent state and a step from it, for each kind of move. -/
theorem witness_ConsistentKeptByStep :
    (Consistent (scheduled (inInv .w64 3 3 0) [turnOf .engine] []) ∧
        ∃ t, step (scheduled (inInv .w64 3 3 0) [turnOf .engine] []) = .next t) ∧
      (Consistent (scheduled (withA 3) [] [.write 0x00 8 0x11]) ∧
        ∃ t, step (scheduled (withA 3) [] [.write 0x00 8 0x11]) = .next t) ∧
      (Consistent (scheduled halted [] [.reset]) ∧ ∃ t, step (scheduled halted [] [.reset]) = .next t) :=
  ⟨⟨by decide, ⟨_, rfl⟩⟩, ⟨by decide, ⟨_, rfl⟩⟩, ⟨by decide, ⟨_, rfl⟩⟩⟩

theorem witness_SoundKeptByStep :
    (Sound (scheduled (inInv .w64 3 3 0) [turnOf .engine] []) ∧
        ∃ t, step (scheduled (inInv .w64 3 3 0) [turnOf .engine] []) = .next t) ∧
      (Sound (scheduled (withA 3) [] [.write 0x00 8 0x11]) ∧
        ∃ t, step (scheduled (withA 3) [] [.write 0x00 8 0x11]) = .next t) :=
  ⟨⟨by decide, ⟨_, rfl⟩⟩, ⟨by decide, ⟨_, rfl⟩⟩⟩

theorem witness_StatusWriters :
    (∃ t, step (scheduled (withA 3) [] [.write 0x00 8 0x11]) = .next t ∧ t.status ≠ (withA 3).status) ∧
      ∃ t, step (scheduled (inProgress .mul .w32 3 5 0) [] []) = .next t ∧ t.status ≠ Status.inProgress :=
  ⟨⟨_, rfl, by decide⟩, ⟨_, rfl, by decide⟩⟩

theorem witness_RegisterWriters :
    (∃ t, step (scheduled (withA 3) [] [.write 0x10 8 5]) = .next t ∧ t.operandA ≠ (withA 3).operandA) ∧
      (∃ t, step (scheduled (withA 3) [] [.write 0x18 8 5]) = .next t ∧ t.operandB ≠ (withA 3).operandB) ∧
      ∃ t, step (scheduled (inProgress .mul .w32 3 5 0) [] []) = .next t ∧ t.result ≠ none :=
  ⟨⟨_, rfl, by decide⟩, ⟨_, rfl, by decide⟩, ⟨_, rfl, by decide⟩⟩

theorem witness_ExecFrame :
    (∃ t, exec .nop (withAB 3 5) = .next t) ∧ (∃ t, exec .inv64 (withAB 3 5) = .next t ∧ t.status.busy = true) ∧
      (∃ t, exec .inv32 (withAB 4 5) = .next t) ∧ (∃ t, exec .mulw32 (withAB 3 5) = .next t ∧ t.status.busy = true) ∧
      ∃ t, exec (.trunc 64) (withAB 3 5) = .next t ∧ t.status.busy = true :=
  ⟨⟨_, rfl⟩, ⟨_, rfl, by decide⟩, ⟨_, rfl⟩, ⟨_, rfl, by decide⟩, ⟨_, rfl, by decide⟩⟩

theorem witness_ResultIsStateless :
    (Instr.mulw64 ≠ .nop ∧ Ready (withAB 3 5) ∧
        Ready { withAB 3 5 with status := Status.malformedError, result := some 7, engX := 9 } ∧
        ∃ t, runCommand .mulw64 (withAB 3 5) = .next t) ∧
      ((withA 3).operandA = (withAB 3 5).operandA ∧ ∃ t, runCommand (.trunc 1) (withA 3) = .next t) :=
  ⟨⟨by decide, by decide, by decide, ⟨_, rfl⟩⟩, ⟨rfl, ⟨_, rfl⟩⟩⟩

theorem witness_LatchesUnreadOutsideACommand :
    (withA 3).status.busy = false ∧ (withA 3).withoutLatches = ({ withA 3 with engX := 9, engW := .w64 } : State).withoutLatches := by
  decide

theorem witness_CompletionIsOneStep :
    (Consistent (scheduled (inProgress .mul .w32 3 5 0) [] []) ∧
        ∃ t, step (scheduled (inProgress .mul .w32 3 5 0) [] []) = .next t ∧ t.status.busy = false) ∧
      (Consistent (scheduled (inInv .w64 3 3 1) [] []) ∧
        ∃ t, step (scheduled (inInv .w64 3 3 1) [] []) = .next t ∧ t.status.busy = false) :=
  ⟨⟨by decide, ⟨_, rfl, by decide⟩⟩, ⟨by decide, ⟨_, rfl, by decide⟩⟩⟩

theorem witness_StopsOnlyAsNamed :
    Consistent State.reset ∧ step State.reset = .fault .stuck ∧
      (Consistent (scheduled State.reset [] [.write 0x00 8 0x12]) ∧
        step (scheduled State.reset [] [.write 0x00 8 0x12]) = .fault .operandUnwritten) ∧
      step (scheduled State.reset [] [.read 0x18 8]) = .fault .readUnwritten ∧
      step (scheduled State.reset [] [.read 0x20 8]) = .fault .readInvalidResult ∧
      (Consistent (scheduled (inInv .w64 3 3 0) [turnOf .host] [.write 0x18 8 5]) ∧
        step (scheduled (inInv .w64 3 3 0) [turnOf .host] [.write 0x18 8 5]) = .refused .hostWriteWhileBusy) :=
  ⟨by decide, rfl, ⟨by decide, rfl⟩, rfl, rfl, by decide, rfl⟩

/-- The stops of the access itself: beyond the window, a reserved offset, narrow and misaligned. -/
theorem witness_StopsOnlyAsNamed_access :
    (Consistent (scheduled State.reset [] [.read 0x40 8]) ∧
        step (scheduled State.reset [] [.read 0x40 8]) = .fault .outsideWindow) ∧
      (Consistent (scheduled State.reset [] [.write 0x28 4 0]) ∧
        step (scheduled State.reset [] [.write 0x28 4 0]) = .refused .reservedOffset) ∧
      (Consistent (scheduled State.reset [] [.read 0x0C 8]) ∧
        step (scheduled State.reset [] [.read 0x0C 8]) = .refused .narrowOrMisalignedAccess) :=
  ⟨⟨by decide, rfl⟩, ⟨by decide, rfl⟩, ⟨by decide, rfl⟩⟩

end Sys2Proof.Tests
end

section
/-! Proofs for 00_scope: every step is the scheduled move (O8), and a step stops only for a named reason (O60). -/

namespace Sys2Proof.Machine

variable {s : State} {k : State → Host.Outcome State Fault Refusal}

/-! The scheduled move (R15, R61, R105, R241). -/

theorem moveOf_of_noStepLeft (h : noStepLeft s = true) : moveOf s = .stuck := if_pos h

/-- Settles O8: one case for each branch of the scheduler. -/
theorem stepTakesTheScheduledMove : Obligations.StepTakesTheScheduledMove := by
  intro s
  cases hn : noStepLeft s with
  | true =>
    rw [moveOf_of_noStepLeft hn]
    exact step_of_noStepLeft hn
  | false =>
    rw [step_of_stepLeft hn]
    cases hs : s.schedule with
    | nil =>
      have hq : { s with schedule := [] } = s := by rw [← hs]
      cases hb : s.status.busy with
      | true => simp [moveOf, scheduledStep, hn, hs, hb, hq]
      | false =>
        cases hp : s.program with
        | nil => simp [moveOf, scheduledStep, hostMove, hostStep, hn, hs, hb, hp]
        | cons act p => simp [moveOf, scheduledStep, hostMove, hostStep, hn, hs, hb, hp]
    | cons r q =>
      cases hr : r.reset with
      | true => simp [moveOf, scheduledStep, hn, hs, hr]
      | false =>
        cases ha : r.agent with
        | engine => cases hb : s.status.busy <;> simp [moveOf, scheduledStep, agentTurn, hn, hs, hr, ha, hb]
        | host =>
          cases hp : s.program with
          | nil => simp [moveOf, scheduledStep, agentTurn, hostMove, hn, hs, hr, ha, hp]
          | cons act p => simp [moveOf, scheduledStep, agentTurn, hostMove, hostStep, hn, hs, hr, ha, hp]

theorem hostMove_eq_stuck_iff {idle : Move} {p : List HostAction} :
    hostMove idle p = .stuck ↔ idle = .stuck ∧ p = [] := by
  cases p <;> simp [hostMove]

/-- The machine's move is `stuck` only where no agent has a step and no reset is to come: a scheduler with choices left
passes instead, and one with none left finds BUSY = 0 and the host's program done (R14). -/
theorem noStepLeft_of_moveOf_stuck (h : moveOf s = .stuck) : noStepLeft s = true := by
  by_contra hn
  unfold moveOf at h
  rw [if_neg hn] at h
  cases hs : s.schedule with
  | nil =>
    cases hb : s.status.busy with
    | true => simp [hs, hb] at h
    | false =>
      have hp : s.program = [] := by simpa [hs, hb, hostMove_eq_stuck_iff] using h
      exact hn (noStepLeft_iff.mpr ⟨hb, hp, by simp [hs]⟩)
  | cons r q =>
    cases hr : r.reset with
    | true => simp [hs, hr] at h
    | false =>
      cases ha : r.agent with
      | engine => cases hb : s.status.busy <;> simp [hs, hr, ha, hb] at h
      | host => simp [hs, hr, ha, hostMove_eq_stuck_iff] at h

/-! What an access selects (R50 to R52). -/

theorem accessAt_register_iff {off n : Nat} {r : Reg} : accessAt off n = .register r ↔ off = r.offset ∧ n = 8 := by
  unfold accessAt
  cases r <;> simp only [Reg.offset] <;> split_ifs <;> simp <;> omega

theorem accessAt_reservedOffset_iff {off n : Nat} :
    accessAt off n = .reservedOffset ↔ off = 0x28 ∨ off = 0x30 ∨ off = 0x38 := by
  unfold accessAt
  split_ifs <;> simp_all

theorem accessAt_narrowOrMisaligned_iff {off n : Nat} :
    accessAt off n = .narrowOrMisaligned ↔ (n ≠ 8 ∨ off % 8 ≠ 0) ∧ off ≠ 0x28 ∧ off ≠ 0x30 ∧ off ≠ 0x38 := by
  unfold accessAt
  split_ifs <;> simp <;> omega

theorem accessAt_outsideWindow_iff {off n : Nat} :
    accessAt off n = .outsideWindow ↔ n = 8 ∧ off % 8 = 0 ∧ 0x40 ≤ off := by
  unfold accessAt
  split_ifs <;> simp <;> omega

/-! Why an action of the host stops (R206). -/

/-- The ground R206 gives for each model fault of the host action `act` in `s`; `stuck` is no action's fault. -/
def FaultGround (s : State) (act : HostAction) : Fault → Prop
  | .operandUnwritten => ∃ v i, act = .write 0x00 8 v ∧ decode v = .ok i ∧ i ≠ .nop ∧
      (s.operandA = none ∨ s.operandB = none ∧ ∃ W, i = mulwOf W)
  | .readUnwritten => ∃ off, (act = .read off 8 ∨ act = .readIfDone off 8) ∧
      (off = 0x10 ∧ s.operandA = none ∨ off = 0x18 ∧ s.operandB = none)
  | .readInvalidResult => s.result = none ∧ (act = .read 0x20 8 ∨ act = .readIfDone 0x20 8)
  | .outsideWindow => ∃ off, act.Accesses off 8 ∧ off % 8 = 0 ∧ 0x40 ≤ off
  | .stuck => False

/-- The ground R206 gives for each refusal of the host action `act` in `s`; every command is modelled. -/
def RefusalGround (s : State) (act : HostAction) : Refusal → Prop
  | .hostWriteWhileBusy => s.status.busy = true ∧ ∃ off v, act = .write off 8 v ∧
      (off = 0x00 ∨ off = 0x10 ∨ off = 0x18)
  | .reservedOffset => ∃ off n, act.Accesses off n ∧ (off = 0x28 ∨ off = 0x30 ∨ off = 0x38)
  | .narrowOrMisalignedAccess => ∃ off n, act.Accesses off n ∧
      (n ≠ 8 ∨ off % 8 ≠ 0) ∧ off ≠ 0x28 ∧ off ≠ 0x30 ∧ off ≠ 0x38
  | .notModelled _ => False

/-! Acceptance. -/

theorem gatedWrite_fault {r : Fault} (h : gatedWrite k s = .fault r) : k s = .fault r := by
  cases hb : s.status.busy <;> cases hf : s.status.fatal <;> simp_all [gatedWrite]

theorem gatedWrite_refused {r : Refusal} (h : gatedWrite k s = .refused r) :
    (s.status.busy = true ∧ r = .hostWriteWhileBusy) ∨ k s = .refused r := by
  cases hb : s.status.busy <;> cases hf : s.status.fatal <;> simp_all [gatedWrite]

theorem acceptCommand_fault {r : Fault} (h : acceptCommand k s = .fault r) :
    k { s with status := s.status.cleared } = .fault r := by
  unfold acceptCommand at h
  have heffect := gatedWrite_fault h
  exact heffect

/-- Where a command's own part refuses nothing, its acceptance is refused only by the gate. -/
theorem acceptCommand_refused {r : Refusal} (hk : k { s with status := s.status.cleared } ≠ .refused r)
    (h : acceptCommand k s = .refused r) : s.status.busy = true ∧ r = .hostWriteWhileBusy :=
  (gatedWrite_refused h).resolve_right hk

theorem withOperandA_fault {f : Word64 → Host.Outcome State Fault Refusal} {r : Fault}
    (h : withOperandA s f = .fault r) : s.operandA = none ∧ r = .operandUnwritten ∨ ∃ a, f a = .fault r := by
  unfold withOperandA at h
  cases ha : s.operandA with
  | some a => exact .inr ⟨a, by simpa [ha] using h⟩
  | none => exact .inl ⟨rfl, by simpa [ha] using h.symm⟩

theorem withOperandB_fault {f : Word64 → Host.Outcome State Fault Refusal} {r : Fault}
    (h : withOperandB s f = .fault r) : s.operandB = none ∧ r = .operandUnwritten ∨ ∃ b, f b = .fault r := by
  unfold withOperandB at h
  cases hb : s.operandB with
  | some b => exact .inr ⟨b, by simpa [hb] using h⟩
  | none => exact .inl ⟨rfl, by simpa [hb] using h.symm⟩

theorem withOperandA_refused {f : Word64 → Host.Outcome State Fault Refusal} {r : Refusal}
    (h : withOperandA s f = .refused r) : ∃ a, f a = .refused r := by
  unfold withOperandA at h
  cases ha : s.operandA with
  | some a => exact ⟨a, by simpa [ha] using h⟩
  | none => simp [ha] at h

theorem withOperandB_refused {f : Word64 → Host.Outcome State Fault Refusal} {r : Refusal}
    (h : withOperandB s f = .refused r) : ∃ b, f b = .refused r := by
  unfold withOperandB at h
  cases hb : s.operandB with
  | some b => exact ⟨b, by simpa [hb] using h⟩
  | none => simp [hb] at h

theorem startInverse_fault {W : Width} {r : Fault} (h : startInverse W s = .fault r) :
    s.operandA = none ∧ r = .operandUnwritten := by
  obtain hA | ⟨a, h⟩ := withOperandA_fault h
  · exact hA
  · dsimp only at h
    split at h <;> cases h

theorem startMultiply_fault {W : Width} {r : Fault} (h : startMultiply W s = .fault r) :
    (s.operandA = none ∨ s.operandB = none) ∧ r = .operandUnwritten := by
  obtain ⟨hA, hr⟩ | ⟨a, h⟩ := withOperandA_fault h
  · exact ⟨.inl hA, hr⟩
  obtain ⟨hB, hr⟩ | ⟨b, h⟩ := withOperandB_fault h
  · exact ⟨.inr hB, hr⟩
  · cases h

theorem startTruncate_fault {K : BitVec 7} {r : Fault} (h : startTruncate K s = .fault r) :
    s.operandA = none ∧ r = .operandUnwritten := by
  obtain hA | ⟨a, h⟩ := withOperandA_fault h
  · exact hA
  · cases h

theorem startInverse_ne_refused (W : Width) (s : State) (r : Refusal) : startInverse W s ≠ .refused r := by
  intro h
  obtain ⟨a, h⟩ := withOperandA_refused h
  dsimp only at h
  split at h <;> cases h

theorem startMultiply_ne_refused (W : Width) (s : State) (r : Refusal) : startMultiply W s ≠ .refused r := by
  intro h
  obtain ⟨a, h⟩ := withOperandA_refused h
  obtain ⟨b, h⟩ := withOperandB_refused h
  cases h

theorem startTruncate_ne_refused (K : BitVec 7) (s : State) (r : Refusal) : startTruncate K s ≠ .refused r := by
  intro h
  obtain ⟨a, h⟩ := withOperandA_refused h
  cases h

/-- R101's arm of a command: what its acceptance does once the gate is passed and STATUS is cleared. -/
def acceptanceArm : Instr → State → Host.Outcome State Fault Refusal
  | .nop => fun s => .next (startEngine .nop s)
  | .inv32 => startInverse .w32
  | .inv64 => startInverse .w64
  | .mulw32 => startMultiply .w32
  | .mulw64 => startMultiply .w64
  | .trunc k => startTruncate k

theorem exec_eq_acceptCommand (i : Instr) (s : State) : exec i s = acceptCommand (acceptanceArm i) s := by
  cases i <;> rfl

/-- An arm of acceptance that faults is missing an operand the command needs (R101). -/
theorem acceptanceArm_fault {i : Instr} {r : Fault} (h : acceptanceArm i s = .fault r) :
    r = .operandUnwritten ∧ i ≠ .nop ∧ (s.operandA = none ∨ s.operandB = none ∧ ∃ W, i = mulwOf W) := by
  cases i with
  | nop => cases h
  | inv32 =>
    obtain ⟨hA, hr⟩ := startInverse_fault h
    exact ⟨hr, by decide, .inl hA⟩
  | inv64 =>
    obtain ⟨hA, hr⟩ := startInverse_fault h
    exact ⟨hr, by decide, .inl hA⟩
  | mulw32 =>
    obtain ⟨hAB, hr⟩ := startMultiply_fault h
    exact ⟨hr, by decide, hAB.imp_right (⟨·, .w32, rfl⟩)⟩
  | mulw64 =>
    obtain ⟨hAB, hr⟩ := startMultiply_fault h
    exact ⟨hr, by decide, hAB.imp_right (⟨·, .w64, rfl⟩)⟩
  | trunc K =>
    obtain ⟨hA, hr⟩ := startTruncate_fault h
    exact ⟨hr, nofun, .inl hA⟩

theorem acceptanceArm_ne_refused (i : Instr) (s : State) (r : Refusal) : acceptanceArm i s ≠ .refused r := by
  cases i with
  | nop => exact nofun
  | inv32 => exact startInverse_ne_refused .w32 s r
  | inv64 => exact startInverse_ne_refused .w64 s r
  | mulw32 => exact startMultiply_ne_refused .w32 s r
  | mulw64 => exact startMultiply_ne_refused .w64 s r
  | trunc K => exact startTruncate_ne_refused K s r

theorem exec_fault {i : Instr} {r : Fault} (h : exec i s = .fault r) :
    r = .operandUnwritten ∧ i ≠ .nop ∧ (s.operandA = none ∨ s.operandB = none ∧ ∃ W, i = mulwOf W) := by
  rw [exec_eq_acceptCommand] at h
  have harm := acceptanceArm_fault (acceptCommand_fault h)
  exact harm

/-- A command is refused only by the gate (R57). -/
theorem exec_refused {i : Instr} {r : Refusal} (h : exec i s = .refused r) :
    s.status.busy = true ∧ r = .hostWriteWhileBusy := by
  rw [exec_eq_acceptCommand] at h
  exact acceptCommand_refused (acceptanceArm_ne_refused i _ r) h

theorem acceptWord_fault {v : Word64} {r : Fault} (h : acceptWord v s = .fault r) :
    r = .operandUnwritten ∧ ∃ i, decode v = .ok i ∧ i ≠ .nop ∧
      (s.operandA = none ∨ s.operandB = none ∧ ∃ W, i = mulwOf W) := by
  unfold acceptWord at h
  cases hd : decode v with
  | ok i =>
    rw [hd] at h
    obtain ⟨hr, hi⟩ := exec_fault h
    exact ⟨hr, i, rfl, hi⟩
  | error e =>
    rw [hd] at h
    cases acceptCommand_fault h

theorem acceptWord_refused {v : Word64} {r : Refusal} (h : acceptWord v s = .refused r) :
    s.status.busy = true ∧ r = .hostWriteWhileBusy := by
  unfold acceptWord at h
  cases hd : decode v with
  | ok i =>
    rw [hd] at h
    exact exec_refused h
  | error e =>
    rw [hd] at h
    exact acceptCommand_refused (by simp) h

/-! Accesses of the window. -/

theorem memRead_fault {off n : Nat} {r : Fault} (h : memRead off n s = .fault r) :
    n = 8 ∧
      ((r = .readUnwritten ∧ (off = 0x10 ∧ s.operandA = none ∨ off = 0x18 ∧ s.operandB = none)) ∨
        (r = .readInvalidResult ∧ off = 0x20 ∧ s.result = none) ∨
        (r = .outsideWindow ∧ off % 8 = 0 ∧ 0x40 ≤ off)) := by
  unfold memRead at h
  cases ha : accessAt off n with
  | reservedOffset => simp [ha] at h
  | narrowOrMisaligned => simp [ha] at h
  | outsideWindow =>
    obtain ⟨hn, hal, hout⟩ := accessAt_outsideWindow_iff.mp ha
    simp only [ha, Host.Outcome.fault.injEq] at h
    exact ⟨hn, .inr (.inr ⟨h.symm, hal, hout⟩)⟩
  | register g =>
    obtain ⟨hoff, hn⟩ := accessAt_register_iff.mp ha
    refine ⟨hn, ?_⟩
    cases g with
    | cmd => simp [ha] at h
    | status => simp [ha] at h
    | operandA => cases hA : s.operandA <;> simp_all [Reg.offset]
    | operandB => cases hB : s.operandB <;> simp_all [Reg.offset]
    | result => cases hR : s.result <;> simp_all [Reg.offset]

theorem memRead_refused {off n : Nat} {r : Refusal} (h : memRead off n s = .refused r) :
    (r = .reservedOffset ∧ accessAt off n = .reservedOffset) ∨
      (r = .narrowOrMisalignedAccess ∧ accessAt off n = .narrowOrMisaligned) := by
  unfold memRead at h
  cases ha : accessAt off n with
  | reservedOffset => simp_all
  | narrowOrMisaligned => simp_all
  | outsideWindow => simp [ha] at h
  | register g =>
    cases g with
    | cmd => simp [ha] at h
    | status => simp [ha] at h
    | operandA => cases hA : s.operandA <;> simp [ha, hA] at h
    | operandB => cases hB : s.operandB <;> simp [ha, hB] at h
    | result => cases hR : s.result <;> simp [ha, hR] at h

theorem memWrite_fault {off n : Nat} {v : Word64} {r : Fault} (h : memWrite off n v s = .fault r) :
    n = 8 ∧ ((off = 0x00 ∧ acceptWord v s = .fault r) ∨ (r = .outsideWindow ∧ off % 8 = 0 ∧ 0x40 ≤ off)) := by
  unfold memWrite at h
  cases ha : accessAt off n with
  | reservedOffset => simp [ha] at h
  | narrowOrMisaligned => simp [ha] at h
  | outsideWindow =>
    obtain ⟨hn, hal, hout⟩ := accessAt_outsideWindow_iff.mp ha
    simp only [ha, Host.Outcome.fault.injEq] at h
    exact ⟨hn, .inr ⟨h.symm, hal, hout⟩⟩
  | register g =>
    obtain ⟨hoff, hn⟩ := accessAt_register_iff.mp ha
    rw [ha] at h
    cases g with
    | cmd => exact ⟨hn, .inl ⟨hoff, h⟩⟩
    | status => cases h
    | operandA => cases gatedWrite_fault h
    | operandB => cases gatedWrite_fault h
    | result => cases h

theorem memWrite_refused {off n : Nat} {v : Word64} {r : Refusal} (h : memWrite off n v s = .refused r) :
    (r = .reservedOffset ∧ accessAt off n = .reservedOffset) ∨
      (r = .narrowOrMisalignedAccess ∧ accessAt off n = .narrowOrMisaligned) ∨
      (r = .hostWriteWhileBusy ∧ s.status.busy = true ∧ n = 8 ∧ (off = 0x00 ∨ off = 0x10 ∨ off = 0x18)) := by
  unfold memWrite at h
  cases ha : accessAt off n with
  | reservedOffset => simp_all
  | narrowOrMisaligned => simp_all
  | outsideWindow => simp [ha] at h
  | register g =>
    obtain ⟨hoff, hn⟩ := accessAt_register_iff.mp ha
    rw [ha] at h
    cases g with
    | cmd =>
      obtain ⟨hb, hr⟩ := acceptWord_refused h
      exact .inr (.inr ⟨hr, hb, hn, .inl hoff⟩)
    | status => cases h
    | operandA =>
      obtain ⟨hb, hr⟩ := (gatedWrite_refused h).resolve_right (by simp)
      exact .inr (.inr ⟨hr, hb, hn, .inr (.inl hoff)⟩)
    | operandB =>
      obtain ⟨hb, hr⟩ := (gatedWrite_refused h).resolve_right (by simp)
      exact .inr (.inr ⟨hr, hb, hn, .inr (.inr hoff)⟩)
    | result => cases h

/-! The host's actions. -/

theorem hostRead_fault {off n : Nat} {r : Fault} (h : hostRead off n s = .fault r) : memRead off n s = .fault r := by
  unfold hostRead at h
  cases hm : memRead off n s <;> simp_all

theorem hostRead_refused {off n : Nat} {r : Refusal} (h : hostRead off n s = .refused r) :
    memRead off n s = .refused r := by
  unfold hostRead at h
  cases hm : memRead off n s <;> simp_all

/-- The ground of a read's fault, whichever of the two actions reads. -/
theorem faultGround_of_memRead {off n : Nat} {r : Fault} {act : HostAction}
    (hact : act = .read off n ∨ act = .readIfDone off n) (h : memRead off n s = .fault r) : FaultGround s act r := by
  obtain ⟨rfl, ⟨rfl, hreg⟩ | ⟨rfl, rfl, hres⟩ | ⟨rfl, hal, hout⟩⟩ := memRead_fault h
  · exact ⟨off, hact, hreg⟩
  · exact ⟨hres, hact⟩
  · exact ⟨off, hact.imp_right .inl, hal, hout⟩

theorem refusalGround_reservedOffset {off n : Nat} {act : HostAction} (hact : act.Accesses off n)
    (ha : accessAt off n = .reservedOffset) : RefusalGround s act .reservedOffset :=
  ⟨off, n, hact, accessAt_reservedOffset_iff.mp ha⟩

theorem refusalGround_narrowOrMisaligned {off n : Nat} {act : HostAction} (hact : act.Accesses off n)
    (ha : accessAt off n = .narrowOrMisaligned) : RefusalGround s act .narrowOrMisalignedAccess :=
  ⟨off, n, hact, accessAt_narrowOrMisaligned_iff.mp ha⟩

theorem refusalGround_of_memRead {off n : Nat} {r : Refusal} {act : HostAction}
    (hact : act = .read off n ∨ act = .readIfDone off n) (h : memRead off n s = .refused r) :
    RefusalGround s act r := by
  obtain ⟨rfl, ha⟩ | ⟨rfl, ha⟩ := memRead_refused h
  · exact refusalGround_reservedOffset (hact.imp_right .inl) ha
  · exact refusalGround_narrowOrMisaligned (hact.imp_right .inl) ha

/-- A host action faults only on the ground R206 gives for its fault. -/
theorem hostAction_fault {act : HostAction} {r : Fault} (h : hostAction act s = .fault r) : FaultGround s act r := by
  cases act with
  | read off n => exact faultGround_of_memRead (.inl rfl) (hostRead_fault h)
  | write off n v =>
    obtain ⟨rfl, ⟨rfl, h⟩ | ⟨rfl, hal, hout⟩⟩ := memWrite_fault h
    · obtain ⟨rfl, i, hi⟩ := acceptWord_fault h
      exact ⟨v, i, rfl, hi⟩
    · exact ⟨off, .inr (.inr ⟨v, rfl⟩), hal, hout⟩
  | reset => cases h
  | wait => cases h
  | readIfDone off n =>
    dsimp only [hostAction] at h
    split at h
    · exact faultGround_of_memRead (.inr rfl) (hostRead_fault h)
    · cases h

/-- A host action is refused only on the ground R206 gives for its refusal. -/
theorem hostAction_refused {act : HostAction} {r : Refusal} (h : hostAction act s = .refused r) :
    RefusalGround s act r := by
  cases act with
  | read off n => exact refusalGround_of_memRead (.inl rfl) (hostRead_refused h)
  | write off n v =>
    obtain ⟨rfl, ha⟩ | ⟨rfl, ha⟩ | ⟨rfl, hb, rfl, hoff⟩ := memWrite_refused h
    · exact refusalGround_reservedOffset (.inr (.inr ⟨v, rfl⟩)) ha
    · exact refusalGround_narrowOrMisaligned (.inr (.inr ⟨v, rfl⟩)) ha
    · exact ⟨hb, off, v, rfl, hoff⟩
  | reset => cases h
  | wait => cases h
  | readIfDone off n =>
    dsimp only [hostAction] at h
    split at h
    · exact refusalGround_of_memRead (.inr rfl) (hostRead_refused h)
    · cases h

/-! The step. -/

/-- In an active phase the engine always has a step (R105, R106). -/
theorem engineStep_of_active (h : s.phase.active = true) : ∃ t, engineStep s = .next t := by
  unfold engineStep
  cases hp : s.phase <;> simp_all [Phase.active]

/-- In a consistent state a step is a next state, R14's stuck, or what the host's next action answers on the state
with only the agents' own queues moved on. -/
theorem step_cases (hc : Consistent s) :
    (∃ t, step s = .next t) ∨ (noStepLeft s = true ∧ step s = .fault .stuck) ∨
      (∃ act q p, moveOf s = .host act ∧ step s = hostAction act { s with schedule := q, program := p }) := by
  have hmove := stepTakesTheScheduledMove s
  cases hm : moveOf s with
  | reset =>
    simp only [hm] at hmove
    obtain ⟨r, q, -, hstep⟩ := hmove
    exact .inl ⟨_, hstep⟩
  | host act =>
    simp only [hm] at hmove
    exact .inr (.inr ⟨act, _, _, rfl, hmove.2⟩)
  | engine =>
    simp only [hm] at hmove
    obtain ⟨hb, hstep⟩ := hmove
    obtain ⟨-, ⟨hphase, -⟩, -⟩ := hc
    obtain ⟨t, ht⟩ := engineStep_of_active (s := { s with schedule := s.schedule.tail }) (hphase ▸ hb)
    exact .inl ⟨t, hstep.trans ht⟩
  | pass =>
    simp only [hm] at hmove
    exact .inl ⟨_, hmove⟩
  | stuck =>
    have hn := noStepLeft_of_moveOf_stuck hm
    exact .inr (.inl ⟨hn, step_of_noStepLeft hn⟩)

theorem step_fault (hc : Consistent s) {r : Fault} (h : step s = .fault r) :
    (noStepLeft s = true ∧ r = .stuck) ∨ ∃ act, moveOf s = .host act ∧ FaultGround s act r := by
  obtain ⟨t, ht⟩ | ⟨hn, ht⟩ | ⟨act, q, p, hm, ht⟩ := step_cases hc
  · cases ht.symm.trans h
  · cases ht.symm.trans h
    exact .inl ⟨hn, rfl⟩
  · have hg := hostAction_fault (ht.symm.trans h)
    exact .inr ⟨act, hm, by cases r <;> exact hg⟩

theorem step_refused (hc : Consistent s) {r : Refusal} (h : step s = .refused r) :
    ∃ act, moveOf s = .host act ∧ RefusalGround s act r := by
  obtain ⟨t, ht⟩ | ⟨-, ht⟩ | ⟨act, q, p, hm, ht⟩ := step_cases hc
  · cases ht.symm.trans h
  · cases ht.symm.trans h
  · have hg := hostAction_refused (ht.symm.trans h)
    exact ⟨act, hm, by cases r <;> exact hg⟩

/-- A fault other than `stuck` is the host's next action's, on its ground. -/
theorem step_fault_of_ne_stuck (hc : Consistent s) {r : Fault} (hr : r ≠ .stuck) (h : step s = .fault r) :
    ∃ act, moveOf s = .host act ∧ FaultGround s act r :=
  (step_fault hc h).resolve_left fun hstuck => hr hstuck.2

/-- A consistent state's step is stuck only where R14 says so: no action of the host is. -/
theorem step_stuck_iff (hc : Consistent s) : step s = .fault .stuck ↔ noStepLeft s = true := by
  refine ⟨fun h => ?_, step_of_noStepLeft⟩
  obtain ⟨hn, -⟩ | ⟨act, -, hg⟩ := step_fault hc h
  · exact hn
  · exact hg.elim

/-- Settles O60: every fault and refusal traced to the ground R206 gives for it. -/
theorem stopsOnlyAsNamed : Obligations.StopsOnlyAsNamed := by
  intro s hc
  refine ⟨(step_stuck_iff hc).trans noStepLeft_iff, fun h => ?_, fun h => ?_, fun h => ?_, fun h => ?_,
    fun h => ?_, fun h => ?_, fun h => ?_, fun r h => ?_⟩
  · obtain ⟨act, hm, v, i, rfl, hi⟩ := step_fault_of_ne_stuck hc (by decide) h
    exact ⟨v, i, hm, hi⟩
  · obtain ⟨act, hm, off, hact, hreg⟩ := step_fault_of_ne_stuck hc (by decide) h
    exact ⟨off, by simpa [hm] using hact, hreg⟩
  · obtain ⟨act, hm, hres, hact⟩ := step_fault_of_ne_stuck hc (by decide) h
    exact ⟨hres, by simpa [hm] using hact⟩
  · obtain ⟨act, hm, off, hout⟩ := step_fault_of_ne_stuck hc (by decide) h
    exact ⟨act, off, hm, hout⟩
  · obtain ⟨act, hm, hb, off, v, rfl, hoff⟩ := step_refused hc h
    exact ⟨hb, off, v, hm, hoff⟩
  · obtain ⟨act, hm, off, n, hres⟩ := step_refused hc h
    exact ⟨act, off, n, hm, hres⟩
  · obtain ⟨act, hm, off, n, hnarrow⟩ := step_refused hc h
    exact ⟨act, off, n, hm, hnarrow⟩
  · obtain ⟨act, hm, hg⟩ := step_refused hc h
    cases r with
    | notModelled _ => exact hg.elim
    | reservedOffset => exact .inr (.inl rfl)
    | narrowOrMisalignedAccess => exact .inr (.inr rfl)
    | hostWriteWhileBusy => exact .inl rfl

end Sys2Proof.Machine
end

section
/-! Proofs for 10_state: STATUS and its words, the invariants at reset and through every step, who writes which register,
what acceptance and the engine leave unchanged, and what a result depends on (R21 to R37). -/

namespace Sys2Proof.Machine

variable {s t : State}

/-! Ends of an engine step. -/

/-- Every end of an engine step (R106): the next update of INV, completion, a failed check of INV. -/
inductive EngineEnd (s : State) : State → Prop
  | update {i : Nat} (hphase : s.phase = .inv i) (hi : i < updates s.engW) :
      EngineEnd s { s with engX := BitVec.ofNat 64 (upd s.engAW.toNat s.engX.toNat s.engW), phase := .inv (i + 1) }
  | completed (r : Option Word64) (hr : r = none ↔ s.phase = .nop) : EngineEnd s (complete r s)
  | failed {i : Nat} {g : BitVec 4} (hphase : s.phase = .inv i) (hg : g = BitVec.ofNat 4 i ∨ g = 15) :
      EngineEnd s (raiseInternalInvariant g s)

theorem stepInv_end {i : Nat} (hphase : s.phase = .inv i) : EngineEnd s (stepInv i s) := by
  obtain ⟨-, heq⟩ | ⟨-, hi, heq⟩ | ⟨-, -, heq⟩ | ⟨-, -, -, heq⟩ := stepInv_cases i s <;> rw [heq]
  · exact .failed hphase (.inl rfl)
  · exact .update hphase hi
  · exact .failed hphase (.inr rfl)
  · exact .completed _ (by simp [hphase])

theorem engineStep_end (h : engineStep s = .next t) : EngineEnd s t := by
  obtain ⟨hp, rfl⟩ | ⟨i, hp, rfl⟩ | ⟨hp, rfl⟩ | ⟨hp, rfl⟩ := engineStep_next h
  · exact .completed none (by simp [hp])
  · exact stepInv_end hp
  · exact .completed _ (by simp [hp])
  · exact .completed _ (by simp [hp])

/-- Settles O26: read off the three ends of the step. -/
theorem engineStepFrame : Obligations.EngineStepFrame := by
  intro s t h
  cases engineStep_end h with
  | update => exact ⟨rfl, rfl, rfl, rfl, rfl, fun _ => ⟨rfl, rfl, rfl, rfl, rfl, rfl⟩⟩
  | completed r => exact ⟨rfl, rfl, rfl, rfl, rfl, nofun⟩
  | failed => exact ⟨rfl, rfl, rfl, rfl, rfl, nofun⟩

/-! Ends of an acceptance. -/

/-- Every end of R101's arm of a command, from the state with STATUS already cleared. -/
inductive Accepted (s : State) : Instr → State → Prop
  | nop : Accepted s .nop (startEngine .nop s)
  | invOdd (W : Width) {a : Word64} (ha : s.operandA = some a) (hodd : a.getLsbD 0 = true) :
      Accepted s (invOf W)
        (startEngine (.inv 0) { s with result := none, engW := W, engAW := latch W a, engX := latch W a })
  | invEven (W : Width) {a : Word64} (ha : s.operandA = some a) (heven : a.getLsbD 0 = false) :
      Accepted s (invOf W) (raiseInvalidInput .evenOperand { s with result := none, engW := W, engAW := latch W a })
  | mulw (W : Width) {a b : Word64} (ha : s.operandA = some a) (hb : s.operandB = some b) :
      Accepted s (mulwOf W)
        (startEngine .mul { s with result := none, engW := W, engAW := latch W a, engBW := latch W b })
  | trunc (K : BitVec 7) {a : Word64} (ha : s.operandA = some a) :
      Accepted s (.trunc K) (startEngine .trunc { s with result := none, engK := K.toNat, engAW := a })

theorem startInverse_accepted {W : Width} (h : startInverse W s = .next t) : Accepted s (invOf W) t := by
  obtain ⟨a, ha, ⟨hodd, rfl⟩ | ⟨heven, rfl⟩⟩ := startInverse_next h
  · exact .invOdd W ha hodd
  · exact .invEven W ha heven

theorem startMultiply_accepted {W : Width} (h : startMultiply W s = .next t) : Accepted s (mulwOf W) t := by
  obtain ⟨a, b, ha, hb, rfl⟩ := startMultiply_next h
  exact .mulw W ha hb

theorem acceptanceArm_accepted {i : Instr} (h : acceptanceArm i s = .next t) : Accepted s i t := by
  cases i with
  | nop =>
    cases h
    exact .nop
  | inv32 => exact startInverse_accepted (W := .w32) h
  | inv64 => exact startInverse_accepted (W := .w64) h
  | mulw32 => exact startMultiply_accepted (W := .w32) h
  | mulw64 => exact startMultiply_accepted (W := .w64) h
  | trunc K =>
    obtain ⟨a, ha, rfl⟩ := startTruncate_next h
    exact .trunc K ha

theorem acceptanceArm_invOf (W : Width) : acceptanceArm (invOf W) = startInverse W := by cases W <;> rfl

theorem acceptanceArm_mulwOf (W : Width) : acceptanceArm (mulwOf W) = startMultiply W := by cases W <;> rfl

/-- The ends named by `Accepted` are reached. -/
theorem acceptanceArm_of_accepted {i : Instr} (h : Accepted s i t) : acceptanceArm i s = .next t := by
  cases h with
  | nop => rfl
  | invOdd W ha hodd => simp only [acceptanceArm_invOf, startInverse, withOperandA, ha, latch_bit_zero, hodd, if_true]
  | invEven W ha heven =>
    simp only [acceptanceArm_invOf, startInverse, withOperandA, ha, latch_bit_zero, heven, Bool.false_eq_true, if_false]
  | mulw W ha hb => simp [acceptanceArm_mulwOf, startMultiply, withOperandA, withOperandB, ha, hb]
  | trunc K ha => simp [acceptanceArm, startTruncate, withOperandA, ha]

theorem exec_accepted {i : Instr} (h : exec i s = .next t) :
    s.status.busy = false ∧
      (s.status.fatal = true ∧ t = s ∨
        s.status.fatal = false ∧ Accepted { s with status := s.status.cleared } i t) := by
  rw [exec_eq_acceptCommand] at h
  exact (acceptCommand_next h).imp_right (.imp_right (.imp_right acceptanceArm_accepted))

theorem exec_of_accepted {i : Instr} (hready : Ready s)
    (h : Accepted { s with status := s.status.cleared } i t) : exec i s = .next t := by
  rw [exec_eq_acceptCommand, acceptCommand_open hready.1 hready.2]
  exact acceptanceArm_of_accepted h

/-- An acceptance finds BUSY = 0 and, but for FATAL = 1, is a malformed value's or its command's. -/
theorem acceptWord_accepted {v : Word64} (h : acceptWord v s = .next t) :
    s.status.busy = false ∧
      (s.status.fatal = true ∧ t = s ∨
        s.status.fatal = false ∧
          ((∃ e, decode v = .error e ∧
              t = raiseInvalidInput .malformedCommand { s with status := s.status.cleared, result := none }) ∨
            ∃ i, decode v = .ok i ∧ Accepted { s with status := s.status.cleared } i t)) := by
  unfold acceptWord at h
  cases hd : decode v with
  | error e =>
    rw [hd] at h
    refine (acceptCommand_next h).imp_right (.imp_right (.imp_right fun h => .inl ⟨e, rfl, ?_⟩))
    cases h
    rfl
  | ok i =>
    rw [hd] at h
    exact (exec_accepted h).imp_right (.imp_right (.imp_right fun h => .inr ⟨i, rfl, h⟩))

/-! What acceptance leaves unchanged (R21, R101, R111). -/

theorem accepted_frame {i : Instr} (h : Accepted s i t) :
    t.operandA = s.operandA ∧ t.operandB = s.operandB ∧
      t.program = s.program ∧ t.schedule = s.schedule ∧ t.busData = s.busData ∧ t.status.fatal = s.status.fatal := by
  cases h <;> exact ⟨rfl, rfl, rfl, rfl, rfl, rfl⟩

theorem accepted_nop_frame (h : Accepted s .nop t) : t = startEngine .nop s := by
  generalize hi : Instr.nop = i at h
  cases h with
  | nop => rfl
  | invOdd W | invEven W | mulw W => cases W <;> cases hi
  | trunc K => cases hi

theorem accepted_result {i : Instr} (hi : i ≠ .nop) (h : Accepted s i t) : t.result = none := by
  cases h with
  | nop => exact absurd rfl hi
  | invOdd | invEven | mulw | trunc => rfl

/-- Each latch has its own commands (R32, R101): where the engine starts, the others keep what they held. -/
theorem accepted_latches {i : Instr} (h : Accepted s i t) (hs : s.status.busy = false) (hb : t.status.busy = true) :
    ((∀ W, i ≠ invOf W) → t.engX = s.engX) ∧ ((∀ W, i ≠ mulwOf W) → t.engBW = s.engBW) ∧
      ((∀ k, i ≠ .trunc k) → t.engK = s.engK) ∧
      ((∀ W, i ≠ invOf W) → (∀ W, i ≠ mulwOf W) → t.engW = s.engW) := by
  cases h with
  | nop => exact ⟨fun _ => rfl, fun _ => rfl, fun _ => rfl, fun _ _ => rfl⟩
  | invOdd W => exact ⟨fun hi => absurd rfl (hi W), fun _ => rfl, fun _ => rfl, fun hi => absurd rfl (hi W)⟩
  | invEven W => exact absurd (hs.symm.trans hb) nofun
  | mulw W => exact ⟨fun _ => rfl, fun hi => absurd rfl (hi W), fun _ => rfl, fun _ hi => absurd rfl (hi W)⟩
  | trunc K => exact ⟨fun _ => rfl, fun _ => rfl, fun hi => absurd rfl (hi K), fun _ _ => rfl⟩

/-- Settles O56: acceptance of each command, by its arm. -/
theorem execFrame : Obligations.ExecFrame := by
  intro i s t h
  obtain ⟨hb, ⟨-, rfl⟩ | ⟨-, hacc⟩⟩ := exec_accepted h
  · exact ⟨rfl, rfl, rfl, rfl, rfl, rfl, fun _ => ⟨rfl, rfl, rfl, rfl, rfl, rfl⟩,
      fun _ => ⟨fun _ => rfl, fun _ => rfl, fun _ => rfl, fun _ _ => rfl⟩⟩
  · obtain ⟨hA, hB, hprog, hsched, hbus, hfatal⟩ := accepted_frame hacc
    refine ⟨hA, hB, hprog, hsched, hbus, hfatal, ?_, fun hbusy => ?_⟩
    · rintro rfl
      rw [accepted_nop_frame hacc]
      exact ⟨rfl, rfl, rfl, rfl, rfl, rfl⟩
    · have hlatch := accepted_latches hacc hb hbusy
      exact hlatch

/-! Host actions that are neither a write nor a reset (R54, R56). -/

/-- Settles O19: what remains of the host's actions moves only its own fields. -/
theorem hostReadsDoNotDisturb : Obligations.HostReadsDoNotDisturb := by
  intro s t act h hwrite hreset
  obtain ⟨off, n, v, hact, -⟩ | ⟨hact, -⟩ | ⟨d, p, rfl⟩ := hostAction_next h
  · exact absurd hact (hwrite off n v)
  · exact absurd hact hreset
  · rfl

/-! What a step does to the block. -/

/-- The state with the agents' own fields in another place; the block is the same. -/
def State.withAgents (s : State) (p : List HostAction) (q : List Turn) (d : Option Word64) : State :=
  { s with program := p, schedule := q, busData := d }

@[simp] theorem withAgents_phase (p : List HostAction) (q : List Turn) (d : Option Word64) :
    (s.withAgents p q d).phase = s.phase := rfl

/-- What a step from `s` does to the block, with `u` the same block after the agents' own fields have moved on. -/
inductive StepEffect (s u : State) : State → Prop
  | reset (hm : moveOf s = .reset ∨ moveOf s = .host .reset) : StepEffect s u (resetBlock u)
  | agentsOnly : StepEffect s u u
  | engine {t : State} (hm : moveOf s = .engine) (hb : s.status.busy = true) (hend : EngineEnd u t) : StepEffect s u t
  | writeA (v : Word64) (hm : moveOf s = .host (.write 0x10 8 v)) : StepEffect s u { u with operandA := some v }
  | writeB (v : Word64) (hm : moveOf s = .host (.write 0x18 8 v)) : StepEffect s u { u with operandB := some v }
  | malformed (v : Word64) (hm : moveOf s = .host (.write 0x00 8 v)) (hready : Ready s) (hd : ∀ i, decode v ≠ .ok i) :
      StepEffect s u (raiseInvalidInput .malformedCommand { u with status := u.status.cleared, result := none })
  | accepted {t : State} (v : Word64) {i : Instr} (hm : moveOf s = .host (.write 0x00 8 v)) (hready : Ready s)
      (hd : decode v = .ok i) (hacc : Accepted { u with status := u.status.cleared } i t) : StepEffect s u t

theorem acceptWord_effect {v : Word64} {p : List HostAction} {q : List Turn} {d : Option Word64}
    (hm : moveOf s = .host (.write 0x00 8 v)) (h : acceptWord v (s.withAgents p q d) = .next t) :
    StepEffect s (s.withAgents p q d) t := by
  obtain ⟨hb, ⟨-, rfl⟩ | ⟨hf, ⟨e, hd, rfl⟩ | ⟨i, hd, hacc⟩⟩⟩ := acceptWord_accepted h
  · exact .agentsOnly
  · exact .malformed v hm ⟨hb, hf⟩ (by simp [hd])
  · exact .accepted v hm ⟨hb, hf⟩ hd hacc

theorem memWrite_effect {off n : Nat} {v : Word64} {p : List HostAction} {q : List Turn} {d : Option Word64}
    (hm : moveOf s = .host (.write off n v)) (h : memWrite off n v (s.withAgents p q d) = .next t) :
    StepEffect s (s.withAgents p q d) t := by
  obtain rfl | ⟨rfl, rfl, h⟩ | ⟨rfl, rfl, -, rfl⟩ | ⟨rfl, rfl, -, rfl⟩ := memWrite_next h
  · exact .agentsOnly
  · exact acceptWord_effect hm h
  · exact .writeA v hm
  · exact .writeB v hm

/-- Every step that answers a next state has one of the effects, on the block it found. -/
theorem step_effect (h : step s = .next t) : ∃ p q d, StepEffect s (s.withAgents p q d) t := by
  obtain ⟨r, q, hm, rfl⟩ | ⟨q, hm, rfl⟩ | ⟨q, hm, hb, h⟩ | ⟨act, p, q, hm, -, h⟩ := step_next h
  · exact ⟨s.program, r :: q, s.busData, .reset (.inl hm)⟩
  · exact ⟨s.program, q, s.busData, .agentsOnly⟩
  · exact ⟨s.program, q, s.busData, .engine hm hb (engineStep_end h)⟩
  · obtain ⟨off, n, v, rfl, h⟩ | ⟨rfl, rfl⟩ | ⟨d, p', rfl⟩ := hostAction_next h
    · exact ⟨p, q, s.busData, memWrite_effect hm h⟩
    · exact ⟨p, q, s.busData, .reset (.inr hm)⟩
    · exact ⟨p', q, d, .agentsOnly⟩

/-! Who writes STATUS, the operand registers and RESULT (R21, R25, R29). -/

/-- Settles O54: the other effects of a step keep STATUS. -/
theorem statusWriters : Obligations.StatusWriters := by
  intro s t h hne
  obtain ⟨p, q, d, heff⟩ := step_effect h
  cases heff with
  | reset hm => exact hm.imp_right .inl
  | agentsOnly | writeA | writeB => exact absurd rfl hne
  | malformed v hm hready => exact .inr (.inr (.inl ⟨hready, v, hm⟩))
  | accepted v hm hready => exact .inr (.inr (.inl ⟨hready, v, hm⟩))
  | engine hm _ hend =>
    refine .inr (.inr (.inr ⟨hm, ?_⟩))
    cases hend with
    | update => exact absurd rfl hne
    | completed r => exact .inl rfl
    | failed => exact .inr ⟨_, rfl⟩

/-- An operand register after a step: unchanged but for reset and the host's write of it. -/
theorem step_operands (h : step s = .next t) :
    (moveOf s = .reset ∨ moveOf s = .host .reset) ∨
      (t.operandA = s.operandA ∧ t.operandB = s.operandB) ∨
      (∃ v, moveOf s = .host (.write 0x10 8 v) ∧ t.operandA = some v ∧ t.operandB = s.operandB) ∨
      (∃ v, moveOf s = .host (.write 0x18 8 v) ∧ t.operandA = s.operandA ∧ t.operandB = some v) := by
  obtain ⟨p, q, d, heff⟩ := step_effect h
  cases heff with
  | reset hm => exact .inl hm
  | agentsOnly | malformed => exact .inr (.inl ⟨rfl, rfl⟩)
  | engine _ _ hend => cases hend <;> exact .inr (.inl ⟨rfl, rfl⟩)
  | accepted v _ _ _ hacc =>
    obtain ⟨hA, hB, -⟩ := accepted_frame hacc
    exact .inr (.inl ⟨hA, hB⟩)
  | writeA v hm => exact .inr (.inr (.inl ⟨v, hm, rfl, rfl⟩))
  | writeB v hm => exact .inr (.inr (.inr ⟨v, hm, rfl, rfl⟩))

/-- RESULT after a step that changes it: invalid after reset, acceptance of anything but NOP or a failed check, valid
after completion of anything but NOP. -/
theorem step_result (h : step s = .next t) (hne : t.result ≠ s.result) :
    (t.result = none ∧
        (moveOf s = .reset ∨ moveOf s = .host .reset ∨ (∃ v, moveOf s = .host (.write 0x00 8 v) ∧ decode v ≠ .ok .nop) ∨
          (moveOf s = .engine ∧ t.phase = .halted))) ∨
      (moveOf s = .engine ∧ t.phase = .idle ∧ s.phase ≠ .nop ∧ ∃ x, t.result = some x) := by
  obtain ⟨p, q, d, heff⟩ := step_effect h
  cases heff with
  | reset hm => exact .inl ⟨rfl, hm.imp_right .inl⟩
  | agentsOnly | writeA | writeB => exact absurd rfl hne
  | malformed v hm _ hd => exact .inl ⟨rfl, .inr (.inr (.inl ⟨v, hm, hd .nop⟩))⟩
  | @accepted t v i hm _ hd hacc =>
    have hnop : i ≠ .nop := by
      rintro rfl
      rw [accepted_nop_frame hacc] at hne
      exact hne rfl
    exact .inl ⟨accepted_result hnop hacc, .inr (.inr (.inl ⟨v, hm, by simpa [hd] using hnop⟩))⟩
  | engine hm _ hend =>
    cases hend with
    | update => exact absurd rfl hne
    | failed => exact .inl ⟨rfl, .inr (.inr (.inr ⟨hm, rfl⟩))⟩
    | completed r hr =>
      cases r with
      | none => exact absurd rfl hne
      | some x => exact .inr ⟨hm, rfl, by simpa using hr, x, rfl⟩

/-- Settles O55, register by register. -/
theorem registerWriters : Obligations.RegisterWriters := by
  intro s t h
  refine ⟨fun hne => ?_, fun hne => ?_, step_result h⟩
  · obtain hm | ⟨hA, -⟩ | ⟨v, hm, hA, -⟩ | ⟨v, -, hA, -⟩ := step_operands h
    · exact hm.imp_right .inl
    · exact absurd hA hne
    · exact .inr (.inr ⟨v, hm, hA⟩)
    · exact absurd hA hne
  · obtain hm | ⟨-, hB⟩ | ⟨v, -, -, hB⟩ | ⟨v, hm, -, hB⟩ := step_operands h
    · exact hm.imp_right .inl
    · exact absurd hB hne
    · exact absurd hB hne
    · exact .inr (.inr ⟨v, hm, hB⟩)


/-! The invariants (R26, R29, R32, R33). A consistent state is Idle, has a command in progress, or is Halted. -/

theorem consistent_of_idle (hst : StatusAgrees s.status) (hready : Ready s) (hp : s.phase = .idle)
    (hres : s.status.err = true → s.result = none) : Consistent s := by
  obtain ⟨hb, hf⟩ := hready
  refine ⟨hst, by simp [PhaseAgrees, hb, hf, hp, Phase.active], by simp [latchesFit, hp], ⟨?_, hres, ?_⟩, ?_⟩
  · simp [hb]
  · simp [hf]
  · simp [StageLegal, hf]

theorem consistent_of_inProgress (hst : s.status = Status.inProgress) (hp : s.phase.active = true)
    (hfit : latchesFit s = true) (hres : s.phase ≠ .nop → s.result = none) : Consistent s := by
  have hne : s.phase ≠ .halted := by
    rintro heq
    simp [heq, Phase.active] at hp
  unfold Consistent PhaseAgrees ResultAgrees StageLegal
  rw [hst]
  exact ⟨by decide, ⟨hp.symm, by simp [hne, Status.inProgress]⟩, hfit, ⟨fun _ => hres, nofun, nofun⟩, nofun⟩

theorem consistent_of_halted {g : BitVec 4} (hst : s.status = Status.inProgress.violated g) (hp : s.phase = .halted)
    (hres : s.result = none) (hg : g.toNat ≤ 6 ∨ g = 15) : Consistent s := by
  unfold Consistent PhaseAgrees ResultAgrees StageLegal latchesFit
  rw [hst, hp]
  exact ⟨by simp [StatusAgrees, Status.inProgress], ⟨rfl, rfl⟩, rfl, ⟨fun _ _ => hres, fun _ => hres, fun _ => hres⟩,
    fun _ => hg⟩

theorem consistent_resetBlock (s : State) : Consistent (resetBlock s) :=
  consistent_of_idle (s := resetBlock s) (show StatusAgrees Status.zero by decide) ⟨rfl, rfl⟩ rfl fun _ => rfl

theorem status_eq_inProgress {f : Status} (h : StatusAgrees f) (hb : f.busy = true) : f = Status.inProgress := by
  obtain ⟨busy, done, err, fatal, cause, stage⟩ := f
  obtain ⟨hbusy, -, -, hcause, -, -, hstage⟩ := h
  obtain ⟨rfl, rfl, rfl⟩ := hbusy hb
  obtain rfl := hb
  obtain rfl := hcause.mpr ⟨rfl, rfl⟩
  obtain rfl : stage = 0 := by_contra fun hne => nomatch hstage hne
  rfl

theorem cleared_of_ready (h : Ready s) : s.status.cleared = Status.zero := by
  unfold Status.cleared
  rw [h.1, h.2]
  rfl

theorem phase_idle_of_ready (hphase : PhaseAgrees s) (h : Ready s) : s.phase = .idle := by
  obtain ⟨hbusy, hfatal⟩ := hphase
  rw [h.1] at hbusy
  rw [h.2] at hfatal
  cases hp : s.phase with
  | idle => rfl
  | halted => simp [hp] at hfatal
  | nop | inv | mul | trunc => simp [hp, Phase.active] at hbusy

/-- K of a decoded TRUNC is at most 64 (R84). -/
theorem decode_trunc_le {v : Word64} {K : BitVec 7} (h : decode v = .ok (.trunc K)) : K.toNat ≤ 64 := by
  rw [pack_fields v, decode_pack] at h
  repeat' split at h
  all_goals cases h
  assumption

theorem raiseInvalidInput_consistent {c : Cause} (hc : c = .evenOperand ∨ c = .malformedCommand)
    (hst : s.status = Status.zero) (hp : s.phase = .idle) (hres : s.result = none) :
    Consistent (raiseInvalidInput c s) := by
  refine consistent_of_idle (s := raiseInvalidInput c s) ?_ ⟨?_, ?_⟩ hp fun _ => hres
  · rw [raiseInvalidInput_status, hst]
    obtain rfl | rfl := hc <;> decide
  · simp [hst]
  · simp [hst]

theorem accepted_consistent {i : Instr} (hK : ∀ K, i = .trunc K → K.toNat ≤ 64) (hst : s.status = Status.zero)
    (hp : s.phase = .idle) (h : Accepted s i t) : Consistent t := by
  have hstarted : s.status.started = Status.inProgress := by rw [hst]; rfl
  cases h with
  | nop => exact consistent_of_inProgress hstarted rfl rfl (absurd rfl)
  | invOdd W =>
    exact consistent_of_inProgress hstarted rfl (decide_eq_true ⟨Nat.zero_le _, latch_lt .., latch_lt ..⟩) fun _ => rfl
  | invEven W => exact raiseInvalidInput_consistent (.inl rfl) hst hp rfl
  | mulw W => exact consistent_of_inProgress hstarted rfl (decide_eq_true ⟨latch_lt .., latch_lt ..⟩) fun _ => rfl
  | trunc K => exact consistent_of_inProgress hstarted rfl (decide_eq_true (hK K rfl)) fun _ => rfl

theorem updates_le (W : Width) : updates W ≤ 6 := by cases W <;> decide

theorem latchesFit_inv {i : Nat} (hp : s.phase = .inv i) (h : latchesFit s = true) :
    i ≤ updates s.engW ∧ s.engAW.toNat < 2 ^ s.engW.bits ∧ s.engX.toNat < 2 ^ s.engW.bits := by
  simpa [latchesFit, hp] using h

theorem engineEnd_consistent (hc : Consistent s) (hb : s.status.busy = true) (h : EngineEnd s t) : Consistent t := by
  obtain ⟨hagrees, -, hfit, ⟨hres, -⟩, -⟩ := hc
  have hst := status_eq_inProgress hagrees hb
  cases h with
  | update hp hi =>
    obtain ⟨-, ha, -⟩ := latchesFit_inv hp hfit
    refine consistent_of_inProgress hst rfl (decide_eq_true ⟨hi, ha, ?_⟩) fun _ => hres hb (by simp [hp])
    rw [toNat_ofNat_of_lt_bits _ (upd_lt ..)]
    exact upd_lt ..
  | completed r =>
    have hdone : (complete r s).status = Status.succeeded := by
      rw [complete_status, hst]
      rfl
    refine consistent_of_idle ?_ ⟨rfl, ?_⟩ rfl ?_ <;> rw [hdone]
    · decide
    · rfl
    · exact nofun
  | @failed i g hp hg =>
    obtain ⟨hi, -, -⟩ := latchesFit_inv hp hfit
    have hi6 := hi.trans (updates_le _)
    refine consistent_of_halted (g := g) (by simp [hst]) rfl rfl (hg.imp_left ?_)
    rintro rfl
    exact (BitVec.toNat_ofNat i 4).le.trans ((Nat.mod_le _ _).trans hi6)

/-- Settles O52: each effect of a step keeps the invariant, which says nothing of the agents' fields and the operands. -/
theorem consistentKeptByStep : Obligations.ConsistentKeptByStep := by
  intro s t hc h
  obtain ⟨p, q, d, heff⟩ := step_effect h
  have hu : Consistent (s.withAgents p q d) := hc
  obtain ⟨-, hphase, -⟩ := hc
  cases heff with
  | reset => exact consistent_resetBlock _
  | agentsOnly | writeA | writeB => exact hu
  | engine _ hb hend => exact engineEnd_consistent hu hb hend
  | malformed v _ hready =>
    exact raiseInvalidInput_consistent (.inr rfl) (cleared_of_ready hready) (phase_idle_of_ready hphase hready) rfl
  | accepted v _ hready hd hacc =>
    refine accepted_consistent (s := { s.withAgents p q d with status := s.status.cleared }) ?_
      (cleared_of_ready hready) (phase_idle_of_ready hphase hready) hacc
    rintro K rfl
    exact decode_trunc_le hd

/-- Settles O51: the base case of both invariants. -/
theorem invariantsHoldAtReset : Obligations.InvariantsHoldAtReset := by
  have hc : Consistent State.reset := consistent_of_idle (by decide) ⟨rfl, rfl⟩ rfl fun _ => rfl
  exact ⟨hc, hc, rfl, rfl⟩

/-- Settles O9: R37's table, row by row. -/
theorem resetValues : Obligations.ResetValues := ⟨rfl, rfl, rfl, rfl, rfl, rfl, rfl⟩

/-! The word of STATUS (R24). -/

theorem toWord_flags (f : Status) :
    f.toWord.getLsbD 0 = f.busy ∧ f.toWord.getLsbD 1 = f.done ∧ f.toWord.getLsbD 2 = f.err ∧
      f.toWord.getLsbD 3 = f.fatal := by
  unfold Status.toWord
  simp only [BitVec.getLsbD_append]
  simp

theorem toWord_cause (f : Status) : f.toWord.extractLsb' 4 4 = f.cause.code := by
  unfold Status.toWord
  simp only [BitVec.extractLsb'_append_eq_ite]
  simp

theorem toWord_stage (f : Status) : f.toWord.extractLsb' 8 4 = f.stage := by
  unfold Status.toWord
  simp only [BitVec.extractLsb'_append_eq_ite]
  simp

theorem toWord_reserved (f : Status) : f.toWord.extractLsb' 12 52 = 0 := by
  unfold Status.toWord
  simp only [BitVec.extractLsb'_append_eq_ite]
  simp

theorem stage_zero_of_not_fatal {f : Status} (h : StatusAgrees f) (hf : f.fatal = false) : f.stage = 0 := by
  obtain ⟨-, -, -, hnone, herr, -, hstage⟩ := h
  by_contra hne
  have hcause := hstage hne
  cases he : f.err with
  | false => simp [hnone.mpr ⟨he, hf⟩] at hcause
  | true => obtain hc | hc := herr he <;> simp [hc] at hcause

/-- Settles O50: the fields of the word, the words that occur, and STAGE by FATAL. -/
theorem statusLayout : Obligations.StatusLayout := by
  refine ⟨fun f => ?_, ⟨rfl, rfl, rfl, rfl, rfl, by decide⟩, fun s hc => ?_⟩
  · obtain ⟨hbusy, hdone, herr, hfatal⟩ := toWord_flags f
    rw [toWord_cause]
    refine ⟨hbusy, hdone, herr, hfatal, ?_, ?_, ?_, ?_, toWord_stage f, toWord_reserved f⟩ <;>
    · intro hcause
      rw [hcause]
      rfl
  · obtain ⟨hagrees, -, -, -, hlegal⟩ := hc
    refine ⟨fun hcause => by_contra fun hne => ?_, ?_⟩
    · obtain ⟨-, -, -, -, -, -, hstage⟩ := hagrees
      exact hcause (hstage hne)
    · cases hf : s.status.fatal with
      | true => exact hlegal hf
      | false =>
        rw [stage_zero_of_not_fatal hagrees hf]
        exact .inl (by decide)

/-! Outside a command nothing reads the engine's registers (R32). -/

@[simp] theorem withoutLatches_status (s : State) : s.withoutLatches.status = s.status := rfl
@[simp] theorem withoutLatches_operandA (s : State) : s.withoutLatches.operandA = s.operandA := rfl
@[simp] theorem withoutLatches_operandB (s : State) : s.withoutLatches.operandB = s.operandB := rfl

/-- What an operation answers, seen without the engine's registers, does not depend on them. -/
def IgnoresLatches (f : State → Host.Outcome State Fault Refusal) : Prop :=
  ∀ s, seen (f s.withoutLatches) = seen (f s)

variable {k : State → Host.Outcome State Fault Refusal}

theorem gatedWrite_ignoresLatches (hk : IgnoresLatches k) : IgnoresLatches (gatedWrite k) := by
  intro s
  unfold gatedWrite
  rw [withoutLatches_status]
  split
  · rfl
  · split
    · rfl
    · exact hk s

theorem acceptCommand_ignoresLatches (hk : IgnoresLatches k) : IgnoresLatches (acceptCommand k) :=
  gatedWrite_ignoresLatches fun s => hk { s with status := s.status.cleared }

theorem withOperandA_ignoresLatches {f : Word64 → State → Host.Outcome State Fault Refusal}
    (hf : ∀ a, IgnoresLatches (f a)) : IgnoresLatches fun s => withOperandA s fun a => f a s := by
  intro s
  simp only [withOperandA, withoutLatches_operandA]
  cases s.operandA with
  | none => rfl
  | some a => exact hf a s

theorem withOperandB_ignoresLatches {f : Word64 → State → Host.Outcome State Fault Refusal}
    (hf : ∀ b, IgnoresLatches (f b)) : IgnoresLatches fun s => withOperandB s fun b => f b s := by
  intro s
  simp only [withOperandB, withoutLatches_operandB]
  cases s.operandB with
  | none => rfl
  | some b => exact hf b s

theorem startInverse_ignoresLatches (W : Width) : IgnoresLatches (startInverse W) :=
  withOperandA_ignoresLatches fun a s => by
    dsimp only
    split <;> rfl

theorem startMultiply_ignoresLatches (W : Width) : IgnoresLatches (startMultiply W) :=
  withOperandA_ignoresLatches fun _ => withOperandB_ignoresLatches fun _ _ => rfl

theorem startTruncate_ignoresLatches (K : BitVec 7) : IgnoresLatches (startTruncate K) :=
  withOperandA_ignoresLatches fun _ _ => rfl

theorem exec_ignoresLatches (i : Instr) : IgnoresLatches (exec i) := by
  cases i with
  | nop => exact acceptCommand_ignoresLatches (k := fun u => .next (startEngine .nop u)) fun _ => rfl
  | inv32 | inv64 => exact acceptCommand_ignoresLatches (startInverse_ignoresLatches _)
  | mulw32 | mulw64 => exact acceptCommand_ignoresLatches (startMultiply_ignoresLatches _)
  | trunc K => exact acceptCommand_ignoresLatches (startTruncate_ignoresLatches K)

theorem acceptWord_ignoresLatches (v : Word64) : IgnoresLatches (acceptWord v) := by
  intro s
  unfold acceptWord
  cases decode v with
  | ok i => exact exec_ignoresLatches i s
  | error e => exact acceptCommand_ignoresLatches (fun _ => rfl) s

theorem memWrite_ignoresLatches (off n : Nat) (v : Word64) : IgnoresLatches (memWrite off n v) := by
  intro s
  unfold memWrite
  cases accessAt off n with
  | reservedOffset | narrowOrMisaligned | outsideWindow => rfl
  | register r =>
    cases r with
    | cmd => exact acceptWord_ignoresLatches v s
    | operandA | operandB => exact gatedWrite_ignoresLatches (fun _ => rfl) s
    | status | result => rfl

theorem hostRead_ignoresLatches (off n : Nat) : IgnoresLatches (hostRead off n) := by
  intro s
  have hread : memRead off n s.withoutLatches = memRead off n s := rfl
  unfold hostRead
  rw [hread]
  cases memRead off n s with
  | next | fault | refused => rfl

theorem hostAction_ignoresLatches (act : HostAction) : IgnoresLatches (hostAction act) := by
  intro s
  cases act with
  | read off n => exact hostRead_ignoresLatches off n s
  | write off n v => exact memWrite_ignoresLatches off n v s
  | reset | wait => rfl
  | readIfDone off n =>
    have hdone : lastReadDone s.withoutLatches = lastReadDone s := rfl
    unfold hostAction
    dsimp only
    rw [hdone]
    split
    · exact hostRead_ignoresLatches off n s
    · rfl

/-- With BUSY = 0 the engine does not move, and no other move reads its registers. -/
theorem step_withoutLatches (hb : s.status.busy = false) : seen (step s.withoutLatches) = seen (step s) := by
  have hmove := stepTakesTheScheduledMove s
  have hmove' := stepTakesTheScheduledMove s.withoutLatches
  have hsame : moveOf s.withoutLatches = moveOf s := rfl
  rw [hsame] at hmove'
  cases hm : moveOf s with
  | engine =>
    simp only [hm, hb] at hmove
    exact nomatch hmove.1
  | host act =>
    simp only [hm] at hmove hmove'
    rw [hmove.2, hmove'.2]
    exact hostAction_ignoresLatches act { s with schedule := s.schedule.tail, program := s.program.tail }
  | reset =>
    simp only [hm] at hmove hmove'
    obtain ⟨r, q, hs, hstep⟩ := hmove
    obtain ⟨r', q', hs', hstep'⟩ := hmove'
    obtain ⟨rfl, rfl⟩ := List.cons.inj (hs.symm.trans hs')
    rw [hstep, hstep']
    rfl
  | pass =>
    simp only [hm] at hmove hmove'
    rw [hmove, hmove']
    rfl
  | stuck =>
    simp only [hm] at hmove hmove'
    rw [hmove, hmove']

/-- Settles O58: both steps are seen as the step of the one state without the registers. -/
theorem latchesUnreadOutsideACommand : Obligations.LatchesUnreadOutsideACommand := by
  intro s s' hb heq
  have hb' : s'.status.busy = false := by
    rw [← withoutLatches_status, ← heq]
    exact hb
  rw [← step_withoutLatches hb, heq, step_withoutLatches hb']

/-! Two runs of one command on the same operands (R36). -/

/-- The same command in progress with the same latches of those its engine steps read (R32, R106). -/
structure SameCommand (s s' : State) : Prop where
  phase : s'.phase = s.phase
  inv : ∀ i, s.phase = .inv i → s'.engW = s.engW ∧ s'.engAW = s.engAW ∧ s'.engX = s.engX
  mul : s.phase = .mul → s'.engW = s.engW ∧ s'.engAW = s.engAW ∧ s'.engBW = s.engBW
  trunc : s.phase = .trunc → s'.engK = s.engK ∧ s'.engAW = s.engAW

/-- The same STATUS and RESULT and, while BUSY = 1, the same command in progress. -/
structure SameRun (s s' : State) : Prop where
  status : s'.status = s.status
  result : s'.result = s.result
  command : s.status.busy = true → SameCommand s s'

variable {s' : State}

theorem complete_sameRun (r : Option Word64) (h : SameRun s s') : SameRun (complete r s) (complete r s') where
  status := congrArg Status.completed h.status
  result := by
    cases r with
    | none => exact h.result
    | some v => rfl
  command := nofun

theorem raiseInternalInvariant_sameRun (g : BitVec 4) (h : SameRun s s') :
    SameRun (raiseInternalInvariant g s) (raiseInternalInvariant g s') where
  status := congrArg (Status.violated g) h.status
  result := rfl
  command := nofun

theorem stepInv_sameRun {i : Nat} (h : SameRun s s')
    (hlatch : s'.engW = s.engW ∧ s'.engAW = s.engAW ∧ s'.engX = s.engX) : SameRun (stepInv i s) (stepInv i s') := by
  obtain ⟨hW, hAW, hX⟩ := hlatch
  simp only [stepInv, hW, hAW, hX]
  split
  · exact raiseInternalInvariant_sameRun _ h
  · split
    · exact ⟨h.status, h.result, fun _ => ⟨rfl, fun _ _ => ⟨rfl, rfl, rfl⟩, nofun, nofun⟩⟩
    · split
      · exact raiseInternalInvariant_sameRun _ h
      · exact complete_sameRun _ h

theorem stepMul_sameRun (h : SameRun s s') (hlatch : s'.engW = s.engW ∧ s'.engAW = s.engAW ∧ s'.engBW = s.engBW) :
    SameRun (stepMul s) (stepMul s') := by
  obtain ⟨hW, hAW, hBW⟩ := hlatch
  simp only [stepMul, hW, hAW, hBW]
  exact complete_sameRun _ h

theorem stepTrunc_sameRun (h : SameRun s s') (hlatch : s'.engK = s.engK ∧ s'.engAW = s.engAW) :
    SameRun (stepTrunc s) (stepTrunc s') := by
  obtain ⟨hK, hAW⟩ := hlatch
  simp only [stepTrunc, hK, hAW]
  exact complete_sameRun _ h

theorem engineStep_sameRun (h : SameRun s s') (hb : s.status.busy = true) (hstep : engineStep s = .next t) :
    ∃ t', engineStep s' = .next t' ∧ SameRun t t' := by
  obtain ⟨hphase, hinv, hmul, htrunc⟩ := h.command hb
  obtain ⟨hp, rfl⟩ | ⟨i, hp, rfl⟩ | ⟨hp, rfl⟩ | ⟨hp, rfl⟩ := engineStep_next hstep
  · exact ⟨stepNop s', by simp only [engineStep, hphase, hp], complete_sameRun none h⟩
  · exact ⟨stepInv i s', by simp only [engineStep, hphase, hp], stepInv_sameRun h (hinv i hp)⟩
  · exact ⟨stepMul s', by simp only [engineStep, hphase, hp], stepMul_sameRun h (hmul hp)⟩
  · exact ⟨stepTrunc s', by simp only [engineStep, hphase, hp], stepTrunc_sameRun h (htrunc hp)⟩

theorem settle_sameRun (n : Nat) (h : SameRun s s') (hrun : settle n s = .next t) :
    ∃ t', settle n s' = .next t' ∧ SameRun t t' := by
  induction n generalizing s s' with
  | zero =>
    cases hrun
    exact ⟨s', rfl, h⟩
  | succ n ih =>
    unfold settle at hrun ⊢
    rw [h.status]
    cases hb : s.status.busy with
    | false =>
      simp only [hb, Bool.false_eq_true, if_false] at hrun ⊢
      cases hrun
      exact ⟨s', rfl, h⟩
    | true =>
      simp only [hb, if_true] at hrun ⊢
      cases hstep : engineStep s with
      | next u =>
        obtain ⟨u', hstep', hu⟩ := engineStep_sameRun h hb hstep
        rw [hstep] at hrun
        rw [hstep']
        exact ih hu hrun
      | fault r =>
        rw [hstep] at hrun
        cases hrun
      | refused r =>
        rw [hstep] at hrun
        cases hrun

/-- Acceptance latches what the command reads, so the same operands start the same run. -/
theorem accepted_sameRun {i : Instr} (hi : i ≠ .nop) (hst : s'.status = s.status) (hb : s.status.busy = false)
    (hA : s.operandA = s'.operandA) (hB : (∃ W, i = mulwOf W) → s.operandB = s'.operandB) (h : Accepted s i t) :
    ∃ t', Accepted s' i t' ∧ SameRun t t' := by
  have hstarted := congrArg Status.started hst
  cases h with
  | nop => exact absurd rfl hi
  | invOdd W ha hodd =>
    exact ⟨_, .invOdd W (hA ▸ ha) hodd, hstarted, rfl, fun _ => ⟨rfl, fun _ _ => ⟨rfl, rfl, rfl⟩, nofun, nofun⟩⟩
  | invEven W ha heven =>
    exact ⟨_, .invEven W (hA ▸ ha) heven, congrArg (Status.invalidInput _) hst, rfl,
      fun hbusy => absurd (hb.symm.trans hbusy) nofun⟩
  | mulw W ha hb =>
    exact ⟨_, .mulw W (hA ▸ ha) (hB ⟨W, rfl⟩ ▸ hb), hstarted, rfl,
      fun _ => ⟨rfl, nofun, fun _ => ⟨rfl, rfl, rfl⟩, nofun⟩⟩
  | trunc K ha =>
    exact ⟨_, .trunc K (hA ▸ ha), hstarted, rfl, fun _ => ⟨rfl, nofun, nofun, fun _ => ⟨rfl, rfl⟩⟩⟩

theorem exec_sameRun {i : Instr} (hi : i ≠ .nop) (hs : Ready s) (hs' : Ready s') (hA : s.operandA = s'.operandA)
    (hB : (∃ W, i = mulwOf W) → s.operandB = s'.operandB) (h : exec i s = .next t) :
    ∃ t', exec i s' = .next t' ∧ SameRun t t' := by
  obtain ⟨-, ⟨hf, -⟩ | ⟨-, hacc⟩⟩ := exec_accepted h
  · exact absurd (hs.2.symm.trans hf) nofun
  · obtain ⟨t', hacc', hrun⟩ := accepted_sameRun (s := { s with status := s.status.cleared })
      (s' := { s' with status := s'.status.cleared }) hi ((cleared_of_ready hs').trans (cleared_of_ready hs).symm)
      hs.1 hA hB hacc
    exact ⟨t', exec_of_accepted hs' hacc', hrun⟩

/-- Settles O57: the two acceptances start the same run, and the engine keeps it so. -/
theorem resultIsStateless : Obligations.ResultIsStateless := by
  intro i s s' t hi hs hs' hA hB hrun
  have hB' : (∃ W, i = mulwOf W) → s.operandB = s'.operandB := by
    rintro ⟨W, rfl⟩
    cases W with
    | w32 => exact hB (.inl rfl)
    | w64 => exact hB (.inr rfl)
  unfold runCommand at hrun ⊢
  cases hexec : exec i s with
  | next u =>
    obtain ⟨u', hexec', hu⟩ := exec_sameRun hi hs hs' hA hB' hexec
    rw [hexec] at hrun
    rw [hexec']
    obtain ⟨t', hrun', ht⟩ := settle_sameRun 7 hu hrun
    exact ⟨t', hrun', ht.result, ht.status⟩
  | fault r =>
    rw [hexec] at hrun
    cases hrun
  | refused r =>
    rw [hexec] at hrun
    cases hrun

end Sys2Proof.Machine
end

section
/-! Proofs for 20_memory: the addresses of a register's bytes, what each access of the window answers, the host's write of a
command as a step, and the one step in which BUSY clears (R50 to R62). -/

namespace Sys2Proof.Machine

variable {s t : State} {off n : Nat} {v : Word64}

/-! Addresses and byte lanes (R50, R53). -/

theorem base_aligned : Config.base % 0x40 = 0 := Nat.mul_mod_right ..

theorem Reg.offset_aligned (r : Reg) : r.offset % 8 = 0 := by cases r <;> rfl

theorem Reg.offset_lt (r : Reg) : r.offset < 0x28 := by cases r <;> decide

/-- An offset selects at most one register. -/
theorem Reg.offset_injective {r r' : Reg} (h : r.offset = r'.offset) : r = r' := by
  have hr : accessAt r.offset 8 = .register r := accessAt_register_iff.mpr ⟨rfl, rfl⟩
  have hr' : accessAt r.offset 8 = .register r' := accessAt_register_iff.mpr ⟨h, rfl⟩
  exact Access.register.inj (hr.symm.trans hr')

/-- Byte lanes of aligned registers do not overlap: an address determines its register and its byte. -/
theorem byteAddress_injective {r r' : Reg} {j j' : Nat} (hj : j < 8) (hj' : j' < 8)
    (h : byteAddress r.offset j = byteAddress r'.offset j') : r = r' ∧ j = j' := by
  have hr := r.offset_aligned
  have hr' := r'.offset_aligned
  unfold byteAddress at h
  exact ⟨Reg.offset_injective (by omega), by omega⟩

theorem byteLane_bit {j b : Nat} (hb : b < 8) (v : Word64) : (byteLane v j).getLsbD b = v.getLsbD (8 * j + b) := by
  simp [byteLane, hb]

theorem bytesOf_getElem? {j : Nat} (hj : j < 8) (v : Word64) : (bytesOf v)[j]? = some (byteLane v j) := by
  unfold bytesOf
  interval_cases j <;> rfl

/-- Settles O12: registers are aligned and lie below 0x28, so their bytes do not meet and stay in the window. -/
theorem byteLanesLittleEndian : Obligations.ByteLanesLittleEndian := by
  intro r j hj
  have hin : byteAddress r.offset j < Config.base + 0x40 := by
    have hr := r.offset_lt
    unfold byteAddress
    omega
  exact ⟨rfl, fun v b hb => byteLane_bit hb v, fun v => bytesOf_getElem? hj v, base_aligned, hin,
    fun r' j' hj' h => byteAddress_injective hj hj' h⟩

/-! Accesses that select no register (R51, R52, log 9). -/

theorem access_reservedOffset (h : off = 0x28 ∨ off = 0x30 ∨ off = 0x38) :
    memRead off n s = .refused .reservedOffset ∧ memWrite off n v s = .refused .reservedOffset := by
  have ha : accessAt off n = .reservedOffset := accessAt_reservedOffset_iff.mpr h
  simp [memRead, memWrite, ha]

theorem access_narrowOrMisaligned (h : n ≠ 8 ∨ off % 8 ≠ 0) (hoff : off ≠ 0x28 ∧ off ≠ 0x30 ∧ off ≠ 0x38) :
    memRead off n s = .refused .narrowOrMisalignedAccess ∧
      memWrite off n v s = .refused .narrowOrMisalignedAccess := by
  have ha : accessAt off n = .narrowOrMisaligned := accessAt_narrowOrMisaligned_iff.mpr ⟨h, hoff⟩
  simp [memRead, memWrite, ha]

theorem access_outsideWindow (hn : n = 8) (hal : off % 8 = 0) (hout : 0x40 ≤ off) :
    memRead off n s = .fault .outsideWindow ∧ memWrite off n v s = .fault .outsideWindow := by
  have ha : accessAt off n = .outsideWindow := accessAt_outsideWindow_iff.mpr ⟨hn, hal, hout⟩
  simp [memRead, memWrite, ha]

/-- Settles O14. -/
theorem reservedOffsetsRefused : Obligations.ReservedOffsetsRefused := fun _ _ _ _ h => access_reservedOffset h

/-- Settles O15: the two ways an access at an unreserved offset misses every register. -/
theorem narrowOrMisalignedRefused : Obligations.NarrowOrMisalignedRefused := by
  intro s off n v h28 h30 h38
  exact ⟨fun h => access_narrowOrMisaligned h ⟨h28, h30, h38⟩, access_outsideWindow⟩

/-! Reads of the registers (R54). -/

theorem memRead_cmd (s : State) : memRead 0x00 8 s = .next 0 := rfl

theorem memRead_status (s : State) : memRead 0x08 8 s = .next s.status.toWord := rfl

theorem memRead_operandA (h : s.operandA = some v) : memRead 0x10 8 s = .next v := by
  simp [memRead, accessAt, h]

theorem memRead_operandA_unwritten (h : s.operandA = none) : memRead 0x10 8 s = .fault .readUnwritten := by
  simp [memRead, accessAt, h]

theorem memRead_operandB (h : s.operandB = some v) : memRead 0x18 8 s = .next v := by
  simp [memRead, accessAt, h]

theorem memRead_operandB_unwritten (h : s.operandB = none) : memRead 0x18 8 s = .fault .readUnwritten := by
  simp [memRead, accessAt, h]

theorem memRead_result (h : s.result = some v) : memRead 0x20 8 s = .next v := by
  simp [memRead, accessAt, h]

theorem memRead_result_invalid (h : s.result = none) : memRead 0x20 8 s = .fault .readInvalidResult := by
  simp [memRead, accessAt, h]

/-- Settles O13, register by register. -/
theorem readsOfTheWindow : Obligations.ReadsOfTheWindow := fun s =>
  ⟨memRead_cmd s, memRead_status s, fun _ => memRead_operandA, memRead_operandA_unwritten, fun _ => memRead_operandB,
    memRead_operandB_unwritten, fun _ => memRead_result, memRead_result_invalid⟩

/-! Writes of the registers (R55 to R58). -/

theorem memWrite_status (v : Word64) (s : State) : memWrite 0x08 8 v s = .next s := rfl

theorem memWrite_result (v : Word64) (s : State) : memWrite 0x20 8 v s = .next s := rfl

/-- Acceptance of any value, a command's or a malformed one's, is one gated write. -/
theorem acceptWord_gated (v : Word64) : ∃ k, ∀ s, acceptWord v s = gatedWrite k s := by
  unfold acceptWord
  cases decode v with
  | ok i => exact exec_gated i
  | error e => exact ⟨_, fun _ => rfl⟩

/-- The three writes R57 and R58 speak of pass the gate. -/
theorem memWrite_gated (h : off = 0x00 ∨ off = 0x10 ∨ off = 0x18) (v : Word64) :
    ∃ k, ∀ s, memWrite off 8 v s = gatedWrite k s := by
  obtain rfl | rfl | rfl := h
  · exact acceptWord_gated v
  · exact ⟨_, memWrite_operandA v⟩
  · exact ⟨_, memWrite_operandB v⟩

theorem memWrite_busy (hb : s.status.busy = true) (h : off = 0x00 ∨ off = 0x10 ∨ off = 0x18) :
    memWrite off 8 v s = .refused .hostWriteWhileBusy := by
  obtain ⟨k, hk⟩ := memWrite_gated h v
  rw [hk, gatedWrite_busy hb]

theorem memWrite_fatal (hb : s.status.busy = false) (hf : s.status.fatal = true)
    (h : off = 0x00 ∨ off = 0x10 ∨ off = 0x18) : memWrite off 8 v s = .next s := by
  obtain ⟨k, hk⟩ := memWrite_gated h v
  rw [hk, gatedWrite_fatal hb hf]

/-- Settles O16: the gate's two closed cases, then each register's own effect. -/
theorem writesOfTheWindow : Obligations.WritesOfTheWindow := by
  intro s off v
  refine ⟨memWrite_busy, memWrite_fatal, ?_, ?_, ?_, ?_⟩
  · rintro - rfl
    exact memWrite_cmd v s
  · rintro ⟨hb, hf⟩ rfl
    rw [memWrite_operandA, gatedWrite_open hb hf]
  · rintro ⟨hb, hf⟩ rfl
    rw [memWrite_operandB, gatedWrite_open hb hf]
  · rintro (rfl | rfl)
    · exact memWrite_status v s
    · exact memWrite_result v s

/-- Settles O17: the gate is closed, and RESULT is invalid while a command other than NOP is in progress (R29). -/
theorem busyRefusesWrites : Obligations.BusyRefusesWrites := by
  intro s v hb
  refine ⟨memWrite_busy hb (by decide), memWrite_busy hb (by decide), memWrite_busy hb (by decide),
    memWrite_status v s, memWrite_result v s, memRead_cmd s, memRead_status s, fun hc hnop => ?_⟩
  obtain ⟨-, -, -, ⟨hres, -⟩, -⟩ := hc
  exact memRead_result_invalid (hres hb hnop)

theorem not_busy_of_fatal {f : Status} (h : StatusAgrees f) (hf : f.fatal = true) : f.busy = false := by
  obtain ⟨hbusy, -⟩ := h
  by_contra hb
  obtain ⟨-, -, hfatal⟩ := hbusy (by simpa using hb)
  cases hfatal.symm.trans hf

/-- Settles O18: FATAL = 1 excludes BUSY = 1 and a valid RESULT (R26, R29). -/
theorem fatalBlocksWrites : Obligations.FatalBlocksWrites := by
  intro s v hc hf
  obtain ⟨hst, -, -, ⟨-, -, hres⟩, -⟩ := hc
  have hb := not_busy_of_fatal hst hf
  exact ⟨memWrite_fatal hb hf (by decide), memWrite_fatal hb hf (by decide), memWrite_fatal hb hf (by decide),
    memRead_cmd s, memRead_status s, fun _ => memRead_operandA, memRead_operandA_unwritten,
    fun _ => memRead_operandB, memRead_operandB_unwritten, memRead_result_invalid (hres hf)⟩

/-! The host's write of a command (R55, R61, R101). -/

section
variable {act : HostAction} {p : List HostAction} {q : List Turn}

theorem noStepLeft_of_program_cons (hp : s.program = act :: p) : noStepLeft s = false := by
  simp [noStepLeft, hp]

theorem moveOf_of_hostTurn (hp : s.program = act :: p) (hq : s.schedule = { agent := .host, reset := false } :: q) :
    moveOf s = .host act := by
  simp [moveOf, noStepLeft_of_program_cons hp, hq, hp, hostMove]

theorem moveOf_of_noTurnLeft (hp : s.program = act :: p) (hq : s.schedule = []) (hb : s.status.busy = false) :
    moveOf s = .host act := by
  simp [moveOf, noStepLeft_of_program_cons hp, hq, hb, hp, hostMove]

theorem step_of_moveOf_host (h : moveOf s = .host act) :
    step s = hostAction act { s with schedule := s.schedule.tail, program := s.program.tail } := by
  have hmove := stepTakesTheScheduledMove s
  simp only [h] at hmove
  exact hmove.2

end

theorem hostAction_writeCommand {i : Instr} (hd : decode v = .ok i) (s : State) :
    hostAction (.write 0x00 8 v) s = exec i s := by
  have hacc : hostAction (.write 0x00 8 v) s = acceptWord v s := rfl
  rw [hacc, acceptWord, hd]

theorem decode_of_decodeTableWord {nbits w : Nat} {i : Instr} (h : decodeTableWord nbits w = some i) :
    decode (BitVec.ofNat 64 (w % 2 ^ nbits)) = .ok i := by
  unfold decodeTableWord at h
  split at h
  · cases hd : decode (BitVec.ofNat 64 (w % 2 ^ nbits)) with
    | ok j => simpa [hd] using h
    | error e => simp [hd] at h
  · cases h

/-- Settles O7: in each of the three forms the host's write of the command is the scheduled move. -/
theorem stepRunsDecodedCommand : Obligations.StepRunsDecodedCommand := by
  refine ⟨fun s v i p hd hp => ⟨fun q hq => ?_, fun hq hb => ?_⟩, fun s nbits w i h => ?_⟩
  · rw [step_of_moveOf_host (moveOf_of_hostTurn hp hq), hostAction_writeCommand hd, hp, hq]
    rfl
  · rw [step_of_moveOf_host (moveOf_of_noTurnLeft hp hq hb), hostAction_writeCommand hd, hp]
    simp [hq]
  · rw [step_of_moveOf_host (moveOf_of_hostTurn (withFetchWord_program s nbits w) (withFetchWord_schedule s nbits w)),
      hostAction_writeCommand (decode_of_decodeTableWord h)]
    rfl

/-! The step in which BUSY clears (R62). -/

theorem complete_result {r : Option Word64} (hr : r = none ↔ s.phase = .nop) :
    (s.phase ≠ .nop → ∃ x, (complete r s).result = some x) ∧ (s.phase = .nop → (complete r s).result = s.result) := by
  cases r with
  | none => exact ⟨fun hne => absurd (hr.mp rfl) hne, fun _ => rfl⟩
  | some x => exact ⟨fun _ => ⟨x, rfl⟩, fun hnop => nomatch hr.mpr hnop⟩

/-- Settles O59: of a step's effects only a reset and two ends of the engine step clear BUSY, and each makes every other
change along with it. -/
theorem completionIsOneStep : Obligations.CompletionIsOneStep := by
  intro s t hc h hb hbt
  obtain ⟨p, q, d, heff⟩ := step_effect h
  obtain ⟨hst, -⟩ := hc
  cases heff with
  | reset hm => exact hm.imp_right .inl
  | agentsOnly | writeA | writeB => cases hb.symm.trans hbt
  | malformed _ _ hready | accepted _ _ hready => cases hb.symm.trans hready.1
  | engine hm _ hend =>
    cases hend with
    | update => cases hb.symm.trans hbt
    | failed => exact .inr (.inr (.inr ⟨hm, rfl, rfl, rfl⟩))
    | completed r hr =>
      have hdone : s.status.completed = Status.succeeded := by
        rw [status_eq_inProgress hst hb]
        rfl
      exact .inr (.inr (.inl ⟨hm, hdone, rfl, complete_result (s := s.withAgents p q d) hr⟩))

end Sys2Proof.Machine
end

section
/-! Proofs for 30_encoding: a CMD value decodes to a command exactly when its fields are the command's, hence the round trips,
the rows, the malformed values and the fields that select W and K (R80 to R91). -/

namespace Sys2Proof

/-! The fields of a command's encoding (R81, R86). -/

/-- OPC of a command (R85). -/
@[simp] def Instr.opcode : Instr → BitVec 4
  | .nop => 0
  | .inv32 => 1
  | .inv64 => 1
  | .mulw32 => 2
  | .mulw64 => 2
  | .trunc _ => 3

/-- WSEL of a command (R83). -/
@[simp] def Instr.wsel : Instr → BitVec 1
  | .nop => 0
  | .inv32 => 0
  | .inv64 => 1
  | .mulw32 => 0
  | .mulw64 => 1
  | .trunc _ => 0

/-- K of a command (R84). -/
@[simp] def Instr.count : Instr → BitVec 7
  | .nop => 0
  | .inv32 => 0
  | .inv64 => 0
  | .mulw32 => 0
  | .mulw64 => 0
  | .trunc k => k

theorem encode_eq_packCommand (i : Instr) : encode i = packCommand 0 0 i.count 0 i.wsel i.opcode := by
  cases i <;> rfl

variable {v : Word64} {i : Instr}

/-- RSVH, RSV1 and RSV0 are zero. -/
def ReservedZero (v : Word64) : Prop := fieldRSVH v = 0 ∧ fieldRSV1 v = 0 ∧ fieldRSV0 v = 0

/-- A value spelled by its fields. -/
theorem eq_packCommand_iff {a : BitVec 32} {b : BitVec 17} {c : BitVec 7} {d : BitVec 3} {e : BitVec 1} {f : BitVec 4} :
    v = packCommand a b c d e f ↔
      fieldRSVH v = a ∧ fieldRSV1 v = b ∧ fieldK v = c ∧ fieldRSV0 v = d ∧ fieldWSEL v = e ∧ fieldOPC v = f := by
  conv_lhs => rw [pack_fields v]
  exact pack_inj

/-- A value agrees with a row on the row's mask exactly when each field does (R86). -/
theorem and_packCommand_eq_iff {a a' : BitVec 32} {b b' : BitVec 17} {c c' : BitVec 7} {d d' : BitVec 3}
    {e e' : BitVec 1} {f f' : BitVec 4} :
    v &&& packCommand a b c d e f = packCommand a' b' c' d' e' f' ↔
      fieldRSVH v &&& a = a' ∧ fieldRSV1 v &&& b = b' ∧ fieldK v &&& c = c' ∧ fieldRSV0 v &&& d = d' ∧
        fieldWSEL v &&& e = e' ∧ fieldOPC v &&& f = f' := by
  conv_lhs => rw [pack_fields v, pack_and]
  exact pack_inj

theorem eq_encode_iff :
    v = encode i ↔ ReservedZero v ∧ fieldK v = i.count ∧ fieldWSEL v = i.wsel ∧ fieldOPC v = i.opcode := by
  rw [encode_eq_packCommand, eq_packCommand_iff, ReservedZero]
  tauto

/-! The round trips (R86, R88). -/

theorem decode_encode (h : i.wf = true) : decode (encode i) = .ok i := by
  cases i with
  | nop | inv32 | inv64 | mulw32 | mulw64 => rfl
  | trunc k =>
    have hk : k.toNat ≤ 64 := of_decide_eq_true h
    rw [encode, decode_pack]
    simp [hk]

/-! What the decoder's parts have tested where they answer a command (R83 to R87). -/

theorem decodeNop_ok (h : decodeNop v = .ok i) : i = .nop ∧ fieldWSEL v = 0 ∧ fieldK v = 0 := by
  unfold decodeNop at h
  split_ifs at h with hwsel hk
  cases h
  exact ⟨rfl, not_not.mp hwsel, not_not.mp hk⟩

theorem decodeByWidth_ok {narrow wide : Instr} (h : decodeByWidth v narrow wide = .ok i) :
    fieldK v = 0 ∧ (i = narrow ∧ fieldWSEL v = 0 ∨ i = wide ∧ fieldWSEL v = 1) := by
  unfold decodeByWidth at h
  split_ifs at h with hk hwsel <;> cases h
  · exact ⟨not_not.mp hk, .inl ⟨rfl, hwsel⟩⟩
  · exact ⟨not_not.mp hk, .inr ⟨rfl, (BitVec.eq_zero_or_eq_one _).resolve_left hwsel⟩⟩

theorem decodeTrunc_ok (h : decodeTrunc v = .ok i) :
    i = .trunc (fieldK v) ∧ fieldWSEL v = 0 ∧ (fieldK v).toNat ≤ 64 := by
  unfold decodeTrunc at h
  split_ifs at h with hwsel hk
  cases h
  exact ⟨rfl, not_not.mp hwsel, hk⟩

/-- Where the decoder answers a command, its tests have fixed every field. -/
theorem fields_of_decode (h : decode v = .ok i) :
    i.wf = true ∧ ReservedZero v ∧ fieldK v = i.count ∧ fieldWSEL v = i.wsel ∧ fieldOPC v = i.opcode := by
  unfold decode at h
  split_ifs at h with hres hop hop hop hop
  all_goals
    have hzero : ReservedZero v := by simpa [ReservedZero] using hres
  · obtain ⟨rfl, hwsel, hk⟩ := decodeNop_ok h
    exact ⟨rfl, hzero, hk, hwsel, hop⟩
  · obtain ⟨hk, ⟨rfl, hwsel⟩ | ⟨rfl, hwsel⟩⟩ := decodeByWidth_ok h <;> exact ⟨rfl, hzero, hk, hwsel, hop⟩
  · obtain ⟨hk, ⟨rfl, hwsel⟩ | ⟨rfl, hwsel⟩⟩ := decodeByWidth_ok h <;> exact ⟨rfl, hzero, hk, hwsel, hop⟩
  · obtain ⟨rfl, hwsel, hk⟩ := decodeTrunc_ok h
    exact ⟨decide_eq_true hk, hzero, rfl, hwsel, hop⟩

theorem decode_eq_ok_iff :
    decode v = .ok i ↔
      i.wf = true ∧ ReservedZero v ∧ fieldK v = i.count ∧ fieldWSEL v = i.wsel ∧ fieldOPC v = i.opcode := by
  refine ⟨fields_of_decode, fun ⟨hwf, hfields⟩ => ?_⟩
  rw [eq_encode_iff.mpr hfields]
  exact decode_encode hwf

theorem wf_and_encode_of_decode (h : decode v = .ok i) : i.wf = true ∧ encode i = v := by
  obtain ⟨hwf, hfields⟩ := fields_of_decode h
  exact ⟨hwf, (eq_encode_iff.mpr hfields).symm⟩

/-- The byte lanes put together are the value (R53). -/
theorem byteLanes_append (v : Word64) :
    byteLane v 7 ++ byteLane v 6 ++ byteLane v 5 ++ byteLane v 4 ++ byteLane v 3 ++ byteLane v 2 ++ byteLane v 1 ++
      byteLane v 0 = v := by
  unfold byteLane
  iterate 7 rw [BitVec.extractLsb'_append_extractLsb'_eq_extractLsb' (by rfl)]
  exact BitVec.extractLsb'_eq_self

theorem decodeBytes_bytesOf (h : decode v = .ok i) (rest : List Byte) :
    decodeBytes (bytesOf v ++ rest) = .ok (i, rest) := by
  have hdecode := h
  rw [← byteLanes_append v] at hdecode
  unfold bytesOf
  simp only [List.cons_append, List.nil_append, decodeBytes]
  rw [hdecode]

/-- Settles O4: the bytes of the encoding put together are the encoding. -/
theorem decodeOfEncode : Obligations.DecodeOfEncode := fun _ h =>
  ⟨decode_encode h, decodeBytes_bytesOf (decode_encode h)⟩

/-- Settles O5: the fields fixed by the decoder are those of the encoding. -/
theorem encodeOfDecode : Obligations.EncodeOfDecode := fun _ _ => wf_and_encode_of_decode

/-! The rows of R86. -/

theorem decode_eq_ok_iff_eq_encode (hwf : i.wf = true) : decode v = .ok i ↔ v = encode i := by
  rw [decode_eq_ok_iff, eq_encode_iff, and_iff_right hwf]

/-- The mask of the rows of INV and MULW leaves WSEL open. -/
theorem widthRow_iff (opc : BitVec 4) :
    v &&& 0xFFFF_FFFF_FFFF_FFEF = packCommand 0 0 0 0 0 opc ↔
      ReservedZero v ∧ fieldK v = 0 ∧ fieldOPC v = opc := by
  have hmask : (0xFFFF_FFFF_FFFF_FFEF : Word64) =
      packCommand (.allOnes _) (.allOnes _) (.allOnes _) (.allOnes _) 0#1 (.allOnes _) := rfl
  rw [hmask, and_packCommand_eq_iff, ReservedZero]
  simp only [BitVec.and_allOnes, BitVec.and_zero]
  tauto

/-- The mask of TRUNC's row leaves K open. -/
theorem truncRow_iff :
    v &&& 0xFFFF_FFFF_FFFF_80FF = 0x0000_0000_0000_0003 ↔
      ReservedZero v ∧ fieldWSEL v = 0 ∧ fieldOPC v = 3 := by
  have hmask : (0xFFFF_FFFF_FFFF_80FF : Word64) =
      packCommand (.allOnes _) (.allOnes _) 0#7 (.allOnes _) (.allOnes _) (.allOnes _) := rfl
  have hmatch : (0x0000_0000_0000_0003 : Word64) = packCommand 0 0 0 0 0 3 := rfl
  rw [hmask, hmatch, and_packCommand_eq_iff, ReservedZero]
  simp only [BitVec.and_allOnes, BitVec.and_zero]
  tauto

/-- Two commands that differ in WSEL alone together leave it open. -/
theorem decode_either_width_iff {narrow wide : Instr} (hcount : narrow.count = 0 ∧ wide.count = 0)
    (hwf : narrow.wf = true ∧ wide.wf = true) (hwsel : narrow.wsel = 0 ∧ wide.wsel = 1)
    (hopcode : narrow.opcode = wide.opcode) :
    decode v = .ok narrow ∨ decode v = .ok wide ↔ v &&& 0xFFFF_FFFF_FFFF_FFEF = packCommand 0 0 0 0 0 wide.opcode := by
  have hw := BitVec.eq_zero_or_eq_one (fieldWSEL v)
  simp only [widthRow_iff, decode_eq_ok_iff, hcount, hwf, hwsel, hopcode]
  tauto

theorem decode_trunc_iff :
    (∃ k, decode v = .ok (.trunc k)) ↔
      v &&& 0xFFFF_FFFF_FFFF_80FF = 0x0000_0000_0000_0003 ∧ (fieldK v).toNat ≤ 64 := by
  rw [truncRow_iff]
  constructor
  · rintro ⟨k, h⟩
    obtain ⟨hwf, hzero, hk, hwsel, hop⟩ := fields_of_decode h
    exact ⟨⟨hzero, hwsel, hop⟩, hk ▸ of_decide_eq_true hwf⟩
  · rintro ⟨⟨hzero, hwsel, hop⟩, hk⟩
    exact ⟨fieldK v, decode_eq_ok_iff.mpr ⟨decide_eq_true hk, hzero, rfl, hwsel, hop⟩⟩

theorem encode_trunc (k : BitVec 7) : encode (.trunc k) = (0x3 : Word64) + (k.setWidth 64 <<< 8) := by
  revert k
  decide

/-- Settles O2: a row fixes the fields its mask keeps, and the round trips give the exact values. -/
theorem wellFormedRowsMatchExactly : Obligations.WellFormedRowsMatchExactly := by
  intro v
  refine ⟨?_, decode_either_width_iff (by decide) (by decide) (by decide) rfl,
    decode_either_width_iff (by decide) (by decide) (by decide) rfl, decode_trunc_iff,
    decode_eq_ok_iff_eq_encode rfl, decode_eq_ok_iff_eq_encode rfl, decode_eq_ok_iff_eq_encode rfl,
    decode_eq_ok_iff_eq_encode rfl, fun k h => ?_⟩
  · have hall : v &&& 0xFFFF_FFFF_FFFF_FFFF = v := BitVec.and_allOnes
    rw [hall]
    exact decode_eq_ok_iff_eq_encode rfl
  · obtain ⟨-, henc⟩ := wf_and_encode_of_decode h
    rw [← encode_trunc, henc]

/-- Settles O1: each row by evaluation, and TRUNC's by the encoder's equation and the round trip. -/
theorem mnemonicValues : Obligations.MnemonicValues := by
  refine ⟨⟨rfl, rfl, rfl⟩, ⟨rfl, rfl, rfl⟩, ⟨rfl, rfl, rfl⟩, ⟨rfl, rfl, rfl⟩, ⟨rfl, rfl, rfl⟩, fun k hk => ?_⟩
  rw [← encode_trunc]
  exact ⟨rfl, rfl, decode_encode (decide_eq_true hk)⟩

/-! The malformed values (R87, R202). -/

/-- Which values decode to a command, by the opcode. -/
theorem exists_decode_iff :
    (∃ i, decode v = .ok i) ↔
      ReservedZero v ∧
        (fieldOPC v = 0 ∧ fieldWSEL v = 0 ∧ fieldK v = 0 ∨ (fieldOPC v = 1 ∨ fieldOPC v = 2) ∧ fieldK v = 0 ∨
          fieldOPC v = 3 ∧ fieldWSEL v = 0 ∧ (fieldK v).toNat ≤ 64) := by
  simp only [decode_eq_ok_iff]
  constructor
  · rintro ⟨i, hwf, hzero, hk, hwsel, hop⟩
    refine ⟨hzero, ?_⟩
    cases i with
    | nop => exact .inl ⟨hop, hwsel, hk⟩
    | inv32 | inv64 => exact .inr (.inl ⟨.inl hop, hk⟩)
    | mulw32 | mulw64 => exact .inr (.inl ⟨.inr hop, hk⟩)
    | trunc k => exact .inr (.inr ⟨hop, hwsel, hk ▸ of_decide_eq_true hwf⟩)
  · rintro ⟨hzero, ⟨hop, hwsel, hk⟩ | ⟨hop | hop, hk⟩ | ⟨hop, hwsel, hk⟩⟩
    · exact ⟨.nop, rfl, hzero, hk, hwsel, hop⟩
    · obtain hwsel | hwsel := BitVec.eq_zero_or_eq_one (fieldWSEL v)
      · exact ⟨.inv32, rfl, hzero, hk, hwsel, hop⟩
      · exact ⟨.inv64, rfl, hzero, hk, hwsel, hop⟩
    · obtain hwsel | hwsel := BitVec.eq_zero_or_eq_one (fieldWSEL v)
      · exact ⟨.mulw32, rfl, hzero, hk, hwsel, hop⟩
      · exact ⟨.mulw64, rfl, hzero, hk, hwsel, hop⟩
    · exact ⟨.trunc (fieldK v), decide_eq_true hk, hzero, rfl, hwsel, hop⟩

theorem opcode_cases (f : BitVec 4) : f = 0 ∨ f = 1 ∨ f = 2 ∨ f = 3 ∨ 4 ≤ f.toNat := by
  revert f
  decide

theorem forall_decode_ne_iff :
    (∀ i, decode v ≠ .ok i) ↔
      4 ≤ (fieldOPC v).toNat ∨ fieldRSVH v ≠ 0 ∨ fieldRSV1 v ≠ 0 ∨ fieldRSV0 v ≠ 0 ∨
      (fieldWSEL v = 1 ∧ (fieldOPC v = 0 ∨ fieldOPC v = 3)) ∨
      (fieldK v ≠ 0 ∧ (fieldOPC v = 0 ∨ fieldOPC v = 1 ∨ fieldOPC v = 2)) ∨
      (64 < (fieldK v).toNat ∧ fieldOPC v = 3) := by
  have hwsel : fieldWSEL v = 1 ↔ ¬ fieldWSEL v = 0 := by
    obtain h | h := BitVec.eq_zero_or_eq_one (fieldWSEL v) <;> simp [h]
  rw [← not_exists, exists_decode_iff, ReservedZero, hwsel, ← not_le (a := (fieldK v).toNat)]
  obtain hop | hop | hop | hop | hreserved := opcode_cases (fieldOPC v)
  case inr.inr.inr.inr =>
    have hne : ∀ f : BitVec 4, f.toNat < 4 → fieldOPC v ≠ f := by
      rintro f hf rfl
      omega
    simp [hreserved, hne]
  all_goals
    simp [hop]
    tauto

end Sys2Proof

namespace Sys2Proof.Machine

variable {s t : State} {v : Word64} {i : Instr}

theorem acceptWord_malformed (h : ∀ i, decode v ≠ .ok i) (s : State) : acceptWord v s = acceptMalformed s := by
  unfold acceptWord
  cases hd : decode v with
  | ok i => exact absurd hd (h i)
  | error e => rfl

theorem memWrite_malformed (h : ∀ i, decode v ≠ .ok i) (hready : Ready s) :
    memWrite 0x00 8 v s =
      .next (dropLatches { s with status := Status.malformedError, result := none }) := by
  rw [memWrite_cmd, acceptWord_malformed h, acceptMalformed, acceptCommand_open hready.1 hready.2,
    cleared_of_ready hready]
  rfl

/-- Settles O3: the values by their fields, and acceptance of one as the gated write of its error. -/
theorem malformedExactlyWhenNoRowMatches : Obligations.MalformedExactlyWhenNoRowMatches := fun _ =>
  ⟨forall_decode_ne_iff, fun h _ hready => ⟨endsAs_of_dropLatches (memWrite_malformed h hready), memRead_cmd _⟩⟩

/-! What WSEL and K select (R83, R84). -/

/-- While INV or MULW is in progress eng.W is the width its WSEL names. -/
theorem accepted_width (h : Accepted s i t) (hs : s.status.busy = false) (hb : t.status.busy = true)
    (hop : i.opcode = 1 ∨ i.opcode = 2) :
    (i.wsel = 0 → t.engW.bits = 32) ∧ (i.wsel = 1 → t.engW.bits = 64) := by
  cases h with
  | nop | trunc => simp at hop
  | invEven => exact absurd (hs.symm.trans hb) nofun
  | invOdd W | mulw W => cases W <;> simp [invOf, mulwOf, Width.bits]

theorem accepted_trunc_count (h : Accepted s i t) (hop : i.opcode = 3) : t.engK = i.count.toNat := by
  cases h with
  | nop => cases hop
  | invOdd W | invEven W | mulw W => cases W <;> cases hop
  | trunc K => rfl

theorem eq_trunc_of_opcode (hop : i.opcode = 3) : i = .trunc i.count := by
  cases i with
  | nop | inv32 | inv64 | mulw32 | mulw64 => cases hop
  | trunc k => rfl

theorem accepted_of_memWrite (hready : Ready s) (h : memWrite 0x00 8 v s = .next t) (hd : decode v = .ok i) :
    Accepted { s with status := s.status.cleared } i t := by
  have hexec : exec i s = .next t := by
    rw [← hostAction_writeCommand hd]
    exact h
  obtain ⟨-, ⟨hf, -⟩ | ⟨-, hacc⟩⟩ := exec_accepted hexec
  · exact absurd (hready.2.symm.trans hf) nofun
  · exact hacc

/-- Settles O6: the decoder ties the fields to the command, and acceptance ties the command to the engine's registers. -/
theorem widthAndCountFields : Obligations.WidthAndCountFields := by
  intro s t v hready h
  refine ⟨fun i hd hop hb => ?_, fun i hd hop => ?_, fun hop hk => ?_⟩
  · have hacc := accepted_of_memWrite hready h hd
    obtain ⟨-, -, -, hwsel, hopc⟩ := fields_of_decode hd
    have hwidth := accepted_width hacc hready.1 hb (hopc ▸ hop)
    rw [← hwsel] at hwidth
    exact hwidth
  · have hacc := accepted_of_memWrite hready h hd
    obtain ⟨-, -, hk, -, hopc⟩ := fields_of_decode hd
    have htrunc := eq_trunc_of_opcode (hopc.symm.trans hop)
    have hK : t.engK = (fieldK v).toNat := hk ▸ accepted_trunc_count hacc (hopc.symm.trans hop)
    rw [← hk] at htrunc
    exact ⟨htrunc, hK, hK ▸ decode_trunc_le (htrunc ▸ hd)⟩
  · have hmal : ∀ i, decode v ≠ .ok i := forall_decode_ne_iff.mpr (by tauto)
    rw [memWrite_malformed hmal hready] at h
    cases h
    rfl

/-! `wait` (R90). -/

/-- Settles O20: the bit `wait` tests is BUSY. -/
theorem waitPollsStatus : Obligations.WaitPollsStatus := by
  intro s
  obtain ⟨hbit, -⟩ := toWord_flags s.status
  constructor <;>
  · intro hb
    simp only [hostAction, hostWait, hbit, hb, Bool.false_eq_true, if_true, if_false]

end Sys2Proof.Machine
end

section
/-! Proofs for 40_command_dispatch: when a CMD write is an acceptance and what each of its arms does, NOP, when the engine has a
step and what it reads, the order of INV's phases, and the bound on the engine's steps (R100 to R110). -/

namespace Sys2Proof.Machine

variable {s t : State} {v a b : Word64} {W : Width} {i : Instr}

/-! The words an arm of acceptance latches (R101, R201). -/

theorem latch_eq_ofNat (W : Width) (a : Word64) : latch W a = BitVec.ofNat 64 (a.toNat % 2 ^ W.bits) := by
  rw [latch, mask_natCast]

theorem bit_zero_eq_decide (v : Word64) : v.getLsbD 0 = decide (v.toNat % 2 = 1) := by
  rw [BitVec.getLsbD, Nat.testBit_zero]

/-- INV's parity test, on the truncated operand as R101 words it. -/
theorem bit_zero_eq_decide_truncated (W : Width) (a : Word64) :
    a.getLsbD 0 = decide (a.toNat % 2 ^ W.bits % 2 = 1) := by
  rw [← latch_bit_zero W, bit_zero_eq_decide, latch_toNat]

/-! Acceptance of a command in a state that accepts, arm by arm (R101). -/

theorem memWrite_command (hd : decode v = .ok i) (s : State) : memWrite 0x00 8 v s = exec i s :=
  hostAction_writeCommand hd s

theorem exec_nop (hready : Ready s) :
    exec .nop s = .next { s with status := Status.inProgress, phase := .nop } := by
  rw [exec_of_accepted hready .nop, cleared_of_ready hready]
  rfl

theorem withOperandA_unwritten {f : Word64 → Host.Outcome State Fault Refusal} (hA : s.operandA = none) :
    withOperandA s f = .fault .operandUnwritten := by
  rw [withOperandA, hA]

theorem withOperandB_unwritten {f : Word64 → Host.Outcome State Fault Refusal} (hB : s.operandB = none) :
    withOperandB s f = .fault .operandUnwritten := by
  rw [withOperandB, hB]

theorem exec_inv_unwritten (hready : Ready s) (hA : s.operandA = none) :
    exec (invOf W) s = .fault .operandUnwritten := by
  rw [exec_invOf, acceptCommand_open hready.1 hready.2]
  exact withOperandA_unwritten hA

theorem exec_inv_even (hready : Ready s) (hA : s.operandA = some a) (heven : a.toNat % 2 ^ W.bits % 2 = 0) :
    EndsAs (exec (invOf W) s) { s with status := Status.evenOperandError, result := none } := by
  have hbit : a.getLsbD 0 = false := by
    rw [bit_zero_eq_decide_truncated W, heven]
    rfl
  unfold EndsAs
  rw [exec_of_accepted hready (.invEven W hA hbit), cleared_of_ready hready]
  rfl

theorem exec_inv_odd (hready : Ready s) (hA : s.operandA = some a) (hodd : a.toNat % 2 ^ W.bits % 2 = 1) :
    exec (invOf W) s = .next { s with
      status := Status.inProgress, result := none, engW := W,
      engAW := BitVec.ofNat 64 (a.toNat % 2 ^ W.bits), engX := BitVec.ofNat 64 (a.toNat % 2 ^ W.bits),
      phase := .inv 0 } := by
  have hbit : a.getLsbD 0 = true := by
    rw [bit_zero_eq_decide_truncated W, hodd]
    rfl
  rw [exec_of_accepted hready (.invOdd W hA hbit), cleared_of_ready hready, latch_eq_ofNat]
  rfl

theorem exec_mulw_unwritten (hready : Ready s) (h : s.operandA = none ∨ s.operandB = none) :
    exec (mulwOf W) s = .fault .operandUnwritten := by
  rw [exec_mulwOf, acceptCommand_open hready.1 hready.2]
  obtain hA | ⟨a, hA⟩ := Option.eq_none_or_eq_some s.operandA
  · exact withOperandA_unwritten hA
  · have hB : s.operandB = none := h.resolve_left (by simp [hA])
    simp only [startMultiply, withOperandA, hA]
    exact withOperandB_unwritten hB

theorem exec_mulw_written (hready : Ready s) (hA : s.operandA = some a) (hB : s.operandB = some b) :
    exec (mulwOf W) s = .next { s with
      status := Status.inProgress, result := none, engW := W,
      engAW := BitVec.ofNat 64 (a.toNat % 2 ^ W.bits), engBW := BitVec.ofNat 64 (b.toNat % 2 ^ W.bits),
      phase := .mul } := by
  rw [exec_of_accepted hready (.mulw W hA hB), cleared_of_ready hready, latch_eq_ofNat, latch_eq_ofNat]
  rfl

theorem exec_trunc_unwritten {K : BitVec 7} (hready : Ready s) (hA : s.operandA = none) :
    exec (.trunc K) s = .fault .operandUnwritten := by
  rw [exec_eq_acceptCommand, acceptCommand_open hready.1 hready.2]
  exact withOperandA_unwritten hA

theorem exec_trunc_written {K : BitVec 7} (hready : Ready s) (hA : s.operandA = some a) :
    exec (.trunc K) s = .next { s with
      status := Status.inProgress, result := none, engK := K.toNat, engAW := a, phase := .trunc } := by
  rw [exec_of_accepted hready (.trunc K hA), cleared_of_ready hready]
  rfl

/-- Settles O22: a malformed value's acceptance, and each command's arm. -/
theorem acceptancePseudocode : Obligations.AcceptancePseudocode := by
  intro s v hready
  refine ⟨fun hmal => endsAs_of_dropLatches (memWrite_malformed hmal hready), fun hd => ?_, fun W hd => ?_,
    fun W hd => ?_, fun K hd => ?_⟩ <;> rw [memWrite_command hd]
  · exact exec_nop hready
  · exact ⟨exec_inv_unwritten hready, fun _ => exec_inv_even hready, fun _ => exec_inv_odd hready⟩
  · exact ⟨exec_mulw_unwritten hready, fun _ _ => exec_mulw_written hready⟩
  · exact ⟨exec_trunc_unwritten hready, fun _ => exec_trunc_written hready⟩

/-- Settles O23: acceptance of a malformed value does not look at the operand registers. -/
theorem decodeBeforeOperands : Obligations.DecodeBeforeOperands := by
  intro s v A B hready hmal
  exact ⟨_, memWrite_malformed (s := { s with operandA := A, operandB := B }) hmal hready, rfl, rfl,
    endsAs_of_dropLatches rfl⟩

/-! What an acceptance in a state that accepts can end in (R100, R101, R104). -/

/-- The next state is a malformed value's or its command's. -/
theorem acceptWord_next_of_ready (hready : Ready s) (h : acceptWord v s = .next t) :
    t = raiseInvalidInput .malformedCommand { s with status := Status.zero, result := none } ∨
      ∃ i, decode v = .ok i ∧ Accepted { s with status := Status.zero } i t := by
  obtain ⟨-, ⟨hf, -⟩ | ⟨-, hend⟩⟩ := acceptWord_accepted h
  · exact absurd (hready.2.symm.trans hf) nofun
  · rw [cleared_of_ready hready] at hend
    exact hend.imp_left fun ⟨_, _, ht⟩ => ht

/-- With the gate open the one stop acceptance has is a missing operand. -/
theorem acceptWord_of_ready (hready : Ready s) (v : Word64) :
    acceptWord v s = .fault .operandUnwritten ∨ ∃ t, acceptWord v s = .next t := by
  cases h : acceptWord v s with
  | next t => exact .inr ⟨t, rfl⟩
  | fault r => exact .inl (congrArg _ (acceptWord_fault h).1)
  | refused r => exact absurd (hready.1.symm.trans (acceptWord_refused h).1) nofun

theorem accepted_status (hst : s.status = Status.zero) (h : Accepted s i t) :
    t.status = Status.inProgress ∨ t.status = Status.evenOperandError := by
  cases h with
  | nop | invOdd | mulw | trunc => exact .inl (congrArg Status.started hst)
  | invEven => exact .inr (congrArg (Status.invalidInput .evenOperand) hst)

/-- Settles O21: the gate's two closed cases, and the ends of an acceptance. -/
theorem acceptanceGate : Obligations.AcceptanceGate := by
  intro s v
  refine ⟨fun hb => memWrite_busy hb (.inl rfl), fun hb hf => memWrite_fatal hb hf (.inl rfl), fun hready => ?_⟩
  rw [memWrite_cmd]
  refine (acceptWord_of_ready hready v).imp_right fun ⟨t, h⟩ => ⟨t, h, ?_⟩
  obtain rfl | ⟨i, -, hacc⟩ := acceptWord_next_of_ready hready h
  · exact .inr (.inr rfl)
  · exact (accepted_status rfl hacc).imp_right .inl

theorem acceptWord_consistent (hc : Consistent s) (hready : Ready s) (h : acceptWord v s = .next t) : Consistent t := by
  obtain ⟨-, hphase, -⟩ := hc
  have hidle := phase_idle_of_ready hphase hready
  obtain rfl | ⟨i, hd, hacc⟩ := acceptWord_next_of_ready hready h
  · exact raiseInvalidInput_consistent (.inr rfl) rfl hidle rfl
  · refine accepted_consistent (s := { s with status := Status.zero }) ?_ rfl hidle hacc
    rintro K rfl
    exact decode_trunc_le hd

theorem acceptWord_operands (hready : Ready s) (h : acceptWord v s = .next t) :
    t.operandA = s.operandA ∧ t.operandB = s.operandB := by
  obtain rfl | ⟨i, -, hacc⟩ := acceptWord_next_of_ready hready h
  · exact ⟨rfl, rfl⟩
  · obtain ⟨hA, hB, -⟩ := accepted_frame hacc
    exact ⟨hA, hB⟩

/-! When the engine has a step (R105). -/

theorem active_of_engineStep (h : engineStep s = .next t) : s.phase.active = true := by
  obtain ⟨hp, -⟩ | ⟨i, hp, -⟩ | ⟨hp, -⟩ | ⟨hp, -⟩ := engineStep_next h <;> rw [hp] <;> rfl

theorem engineStep_ne_next (h : s.phase.active = false) (t : State) : engineStep s ≠ .next t := fun hstep =>
  nomatch h.symm.trans (active_of_engineStep hstep)

/-- Settles O25: a consistent state has BUSY = 1 exactly in the active phases. -/
theorem engineEnabledExactlyWhenBusy : Obligations.EngineEnabledExactlyWhenBusy := by
  intro s hc
  obtain ⟨-, ⟨hbusy, -⟩, -⟩ := hc
  rw [hbusy]
  refine ⟨⟨fun ⟨t, h⟩ => active_of_engineStep h, engineStep_of_active⟩, ?_⟩
  rintro (hp | hp) <;> exact engineStep_ne_next (by rw [hp]; rfl)

theorem busy_of_moveOf_engine (h : moveOf s = .engine) : s.status.busy = true := by
  have hmove := stepTakesTheScheduledMove s
  simp only [h] at hmove
  exact hmove.1

/-- ERR = 1 excludes a command in progress and FATAL (R26). -/
theorem ready_of_err {f : Status} (h : StatusAgrees f) (he : f.err = true) : f.busy = false ∧ f.fatal = false := by
  obtain ⟨hbusy, -, hfatal, -⟩ := h
  refine ⟨?_, hfatal he⟩
  by_contra hb
  obtain ⟨-, herr, -⟩ := hbusy (by simpa using hb)
  cases he.symm.trans herr

/-- Settles O24: acceptance keeps the state consistent, and a consistent state with ERR = 1 is Idle. -/
theorem invalidInputEndsAtAcceptance : Obligations.InvalidInputEndsAtAcceptance := by
  intro s t v hc hready h herr
  obtain ⟨hagrees, hphase, -⟩ := acceptWord_consistent hc hready h
  have ht : Ready t := ready_of_err hagrees herr
  have hidle := phase_idle_of_ready hphase ht
  refine ⟨ht.1, hidle, engineStep_ne_next (by rw [hidle]; rfl), fun hm => ?_, acceptWord_operands hready h⟩
  cases ht.1.symm.trans (busy_of_moveOf_engine hm)

/-! What the engine reads (R102, R106). -/

theorem engineStep_nop (hp : s.phase = .nop) : engineStep s = .next (stepNop s) := by
  rw [engineStep, hp]

theorem engineStep_inv {j : Nat} (hp : s.phase = .inv j) : engineStep s = .next (stepInv j s) := by
  rw [engineStep, hp]

theorem engineStep_mul (hp : s.phase = .mul) : engineStep s = .next (stepMul s) := by
  rw [engineStep, hp]

theorem engineStep_trunc (hp : s.phase = .trunc) : engineStep s = .next (stepTrunc s) := by
  rw [engineStep, hp]

theorem stepInv_withOperands (i : Nat) (s : State) (A B : Option Word64) :
    stepInv i { s with operandA := A, operandB := B } = { stepInv i s with operandA := A, operandB := B } := by
  unfold stepInv
  dsimp only
  split
  · rfl
  · split
    · rfl
    · split <;> rfl

theorem engineStep_withOperands (A B : Option Word64) (h : engineStep s = .next t) :
    engineStep { s with operandA := A, operandB := B } = .next { t with operandA := A, operandB := B } := by
  obtain ⟨hp, rfl⟩ | ⟨i, hp, rfl⟩ | ⟨hp, rfl⟩ | ⟨hp, rfl⟩ := engineStep_next h
  · exact engineStep_nop hp
  · rw [← stepInv_withOperands]
    exact engineStep_inv hp
  · exact engineStep_mul hp
  · exact engineStep_trunc hp

theorem stepInv_withResult (i : Nat) (s : State) (R : Option Word64) :
    (stepInv i { s with result := R }).status = (stepInv i s).status ∧
      (stepInv i { s with result := R }).phase = (stepInv i s).phase ∧
      (stepInv i { s with result := R }).engX = (stepInv i s).engX := by
  unfold stepInv
  dsimp only
  split
  · exact ⟨rfl, rfl, rfl⟩
  · split
    · exact ⟨rfl, rfl, rfl⟩
    · split <;> exact ⟨rfl, rfl, rfl⟩

theorem engineStep_withResult (R : Option Word64) (h : engineStep s = .next t) :
    ∃ u, engineStep { s with result := R } = .next u ∧
      u.status = t.status ∧ u.phase = t.phase ∧ u.engX = t.engX := by
  obtain ⟨hp, rfl⟩ | ⟨i, hp, rfl⟩ | ⟨hp, rfl⟩ | ⟨hp, rfl⟩ := engineStep_next h
  · exact ⟨_, engineStep_nop hp, rfl, rfl, rfl⟩
  · exact ⟨_, engineStep_inv hp, stepInv_withResult i s R⟩
  · exact ⟨_, engineStep_mul hp, rfl, rfl, rfl⟩
  · exact ⟨_, engineStep_trunc hp, rfl, rfl, rfl⟩

/-- Settles O27: the step of each phase reads neither. -/
theorem engineReadsOnlyLatches : Obligations.EngineReadsOnlyLatches := fun _ _ A B h =>
  ⟨engineStep_withOperands A B h, fun R => engineStep_withResult R h⟩

/-! NOP (R108). -/

/-- Opcode 0 with any other bit set is malformed (R87). -/
theorem malformed_of_opcode_zero (hop : fieldOPC v = 0) (hne : v ≠ 0) (i : Instr) : decode v ≠ .ok i := by
  intro hd
  obtain ⟨-, -, -, -, hopc⟩ := fields_of_decode hd
  obtain ⟨-, henc⟩ := wf_and_encode_of_decode hd
  cases i with
  | nop => exact hne henc.symm
  | inv32 | inv64 | mulw32 | mulw64 | trunc => cases hop.symm.trans hopc

/-- Settles O28: acceptance and the one step, and the gate and the decoder for the rest. -/
theorem nopAcceptsAndCompletes : Obligations.NopAcceptsAndCompletes :=
  ⟨rfl, rfl, fun _ hready => ⟨exec_nop hready, endsAs_of_dropLatches rfl⟩,
    fun _ hb hf => memWrite_fatal hb hf (.inl rfl),
    fun _ _ hready hop hne => endsAs_of_dropLatches (memWrite_malformed (malformed_of_opcode_zero hop hne) hready),
    rfl, rfl⟩

/-! The phases of INV (R109, R122). -/

/-- The final check implies every checkpoint: a product that is 1 modulo 2^W is 1 modulo the checkpoint's power. -/
theorem checkpoint_of_product_one {p : Nat} (W : Width) (i : Nat) (h : p = 1) : mask (threshold W i) (p : Int) = 1 := by
  have hpos : 0 < threshold W i := by
    have hpow := Nat.two_pow_pos i
    cases W <;> simp only [threshold, Width.bits] <;> omega
  rw [mask_natCast, h]
  exact Nat.one_mod_two_pow hpos

/-- Settles O29: the four ends of the INV step, with i ≤ N(W) in a consistent state. -/
theorem invPhasesInOrder : Obligations.InvPhasesInOrder := by
  intro s t i hc hp h
  obtain ⟨hagrees, ⟨hbusy, -⟩, hfit, -⟩ := hc
  obtain ⟨hi, -⟩ := latchesFit_inv hp hfit
  have hst : s.status = Status.inProgress := status_eq_inProgress hagrees (by rw [hbusy, hp]; rfl)
  obtain rfl : stepInv i s = t := Host.Outcome.next.inj ((engineStep_inv hp).symm.trans h)
  obtain ⟨hcheck, heq⟩ | ⟨hcheck, hlt, heq⟩ | ⟨hlt, hfinal, heq⟩ | ⟨hlt, hprod, hodd, heq⟩ := stepInv_cases i s <;>
    rw [heq]
  · exact .inr (.inr ⟨.inl hcheck, rfl, rfl, rfl⟩)
  · exact .inl ⟨hcheck, hlt, rfl, rfl⟩
  · have hN := hi.antisymm (not_lt.mp hlt)
    refine .inr (.inr ⟨.inr ⟨hN, fun ⟨hprod, hodd⟩ => ?_⟩, rfl, rfl, rfl⟩)
    rw [bit_zero_eq_decide, hodd] at hfinal
    exact hfinal.elim (absurd hprod) (by decide)
  · have hN := hi.antisymm (not_lt.mp hlt)
    rw [bit_zero_eq_decide, decide_eq_true_iff] at hodd
    refine .inr (.inl ⟨checkpoint_of_product_one _ i hprod, hN, ⟨hprod, hodd⟩, rfl, ?_⟩)
    rw [complete_status, hst]
    rfl

/-! The bound on the engine's steps (R110). -/

theorem settle_of_not_busy (n : Nat) (hb : s.status.busy = false) : settle n s = .next s := by
  cases n <;> simp [settle, hb]

theorem settle_succ (n : Nat) (hb : s.status.busy = true) (h : engineStep s = .next t) :
    settle (n + 1) s = settle n t := by
  simp [settle, hb, h]

/-- A command in progress with at most `n` updates of INV ahead, none in the other phases, ends within `n + 1` steps. -/
theorem settle_ends {s : State} (n : Nat) (hb : s.status.busy = true) (hp : s.phase.active = true)
    (hleft : ∀ i, s.phase = .inv i → updates s.engW - i ≤ n) :
    ∃ t, settle (n + 1) s = .next t ∧ t.status.busy = false ∧ (t.status.done = true ∨ t.status.fatal = true) := by
  obtain ⟨t, hstep⟩ := engineStep_of_active hp
  rw [settle_succ n hb hstep]
  cases engineStep_end hstep with
  | completed => exact ⟨_, settle_of_not_busy n rfl, rfl, .inl rfl⟩
  | failed => exact ⟨_, settle_of_not_busy n rfl, rfl, .inr rfl⟩
  | @update i hphase hi =>
    have hmore := hleft i hphase
    cases n with
    | zero => omega
    | succ n =>
      refine settle_ends n hb rfl fun j hj => ?_
      obtain rfl := Phase.inv.inj hj
      dsimp only
      omega

/-- Settles O30: a consistent state in Inv(i) has N(W) - i updates ahead. -/
theorem commandEndsWithinBound : Obligations.CommandEndsWithinBound := by
  intro s hc hb
  obtain ⟨-, ⟨hbusy, -⟩, hfit, -⟩ := hc
  have hactive : s.phase.active = true := hbusy ▸ hb
  cases hp : s.phase with
  | inv i =>
    obtain ⟨hi, -⟩ := latchesFit_inv hp hfit
    have hleft : ∀ j, s.phase = .inv j → updates s.engW - j ≤ updates s.engW - i := by
      intro j hj
      cases hp.symm.trans hj
      rfl
    obtain ⟨t, hrun, hnot, hend⟩ := settle_ends _ hb hactive hleft
    rw [← Nat.sub_add_comm hi] at hrun
    have hN := updates_le s.engW
    exact ⟨t, hrun, hnot, hend, by dsimp only; omega⟩
  | nop | mul | trunc =>
    obtain ⟨t, hrun, hnot, hend⟩ := settle_ends 0 hb hactive (by simp [hp])
    exact ⟨t, hrun, hnot, hend, Nat.le_add_left 1 6⟩
  | idle | halted => simp [hp, Phase.active] at hactive

end Sys2Proof.Machine
end

section
/-! The arithmetic of 41_inverse_engine: the update modulo 2^W, the residue 1 - a·x it squares, the precision of each
approximation, and the one inverse of an odd operand (R120, R121, R123, R125 to R128). -/

namespace Sys2Proof.Machine

variable {a x y k n : Nat} {W : Width}

theorem Width.bits_pos (W : Width) : 0 < W.bits := by cases W <;> decide

theorem threshold_zero (W : Width) : threshold W 0 = 3 := by cases W <;> rfl

theorem threshold_succ (W : Width) (i : Nat) : threshold W (i + 1) = min (2 * threshold W i) W.bits := by
  unfold threshold
  rw [Nat.pow_succ]
  omega

theorem threshold_pos (W : Width) (i : Nat) : 0 < threshold W i :=
  Nat.lt_min.mpr ⟨by positivity, Width.bits_pos W⟩

theorem threshold_updates (W : Width) : threshold W (updates W) = W.bits := by cases W <;> rfl

/-! The units and the update as congruences (R120, R121, R150, R170). -/

theorem mask_modEq (k : Nat) (v : Int) : (mask k v : Int) ≡ v [ZMOD (2 ^ k : Nat)] := by
  rw [mask_cast]
  exact Int.mod_modEq ..

theorem mulMod_modEq (W : Width) (p q : Nat) : (mulMod W p q : Int) ≡ p * q [ZMOD (2 ^ W.bits : Nat)] := by
  rw [mulMod]
  push_cast
  exact Int.mod_modEq ..

theorem upd_modEq (a x : Nat) (W : Width) : (upd a x W : Int) ≡ x + x - a * x * x [ZMOD (2 ^ W.bits : Nat)] :=
  calc (upd a x W : Int)
      ≡ x + x - mulMod W (mulMod W a x) x [ZMOD (2 ^ W.bits : Nat)] := mask_modEq ..
    _ ≡ x + x - mulMod W a x * x [ZMOD (2 ^ W.bits : Nat)] := .sub_left _ (mulMod_modEq ..)
    _ ≡ x + x - a * x * x [ZMOD (2 ^ W.bits : Nat)] := .sub_left _ ((mulMod_modEq ..).mul_right _)

theorem productForm_modEq (a x : Nat) (W : Width) :
    (mulMod W x (mask W.bits (2 - (mulMod W a x : Int))) : Int) ≡ x + x - a * x * x [ZMOD (2 ^ W.bits : Nat)] :=
  calc (mulMod W x (mask W.bits (2 - (mulMod W a x : Int))) : Int)
      ≡ x * mask W.bits (2 - (mulMod W a x : Int)) [ZMOD (2 ^ W.bits : Nat)] := mulMod_modEq ..
    _ ≡ x * (2 - mulMod W a x) [ZMOD (2 ^ W.bits : Nat)] := (mask_modEq ..).mul_left _
    _ ≡ x * (2 - a * x) [ZMOD (2 ^ W.bits : Nat)] := ((mulMod_modEq ..).sub_left _).mul_left _
    _ = x + x - a * x * x := by ring

/-- Integers congruent modulo 2^w are one w-bit word. -/
theorem intCast_eq_of_modEq {w : Nat} {u v : Int} (h : u ≡ v [ZMOD (2 ^ w : Nat)]) :
    (u : BitVec w) = (v : BitVec w) :=
  BitVec.eq_of_toNat_eq (congrArg Int.toNat h)

/-- Settles O31: each form is congruent to x + x - a·x·x modulo 2^W. -/
theorem updateFormsAgree : Obligations.UpdateFormsAgree := by
  intro W a x
  refine ⟨?_, ?_, ?_⟩
  · rw [← (upd_modEq a x W).eq, Int.emod_eq_of_lt (by positivity) (by exact_mod_cast upd_lt a x W)]
  · have h : upd a x W ≡ mulMod W x (mask W.bits (2 - (mulMod W a x : Int))) [MOD 2 ^ W.bits] :=
      Int.natCast_modEq_iff.mp ((upd_modEq a x W).trans (productForm_modEq a x W).symm)
    exact h.eq_of_lt_of_lt (upd_lt ..) (mulMod_lt ..)
  · have h := intCast_eq_of_modEq (upd_modEq a x W)
    push_cast at h
    exact h

/-! Precision: how many low bits of a·x are those of 1 (R125, R126, R127). -/

/-- The product is 1 modulo 2^k exactly when 2^k divides the residue. -/
theorem mod_two_pow_eq_one_iff (hk : 0 < k) : n % 2 ^ k = 1 ↔ ((2 ^ k : Nat) : Int) ∣ 1 - n := by
  have h : n ≡ 1 [MOD 2 ^ k] ↔ _ := Nat.modEq_iff_dvd
  rwa [Nat.ModEq, Nat.one_mod_two_pow hk, Nat.cast_one] at h

/-- The update squares the residue 1 - a·x. -/
theorem residue_upd (a x : Nat) (W : Width) :
    (1 - a * upd a x W : Int) ≡ (1 - a * x) ^ 2 [ZMOD (2 ^ W.bits : Nat)] :=
  calc (1 - a * upd a x W : Int)
      ≡ 1 - a * (x + x - a * x * x) [ZMOD (2 ^ W.bits : Nat)] := .sub_left _ ((upd_modEq ..).mul_left _)
    _ = (1 - a * x) ^ 2 := by ring

/-- Doubling (R126), of any natural a and x. -/
theorem mul_upd_mod (hk : 0 < k) (h : a * x % 2 ^ k = 1) : a * upd a x W % 2 ^ min (2 * k) W.bits = 1 := by
  have hW := Width.bits_pos W
  rw [mod_two_pow_eq_one_iff hk, Nat.cast_mul] at h
  rw [mod_two_pow_eq_one_iff (by omega), Nat.cast_mul]
  have hsquare : ((2 ^ (2 * k) : Nat) : Int) ∣ (1 - a * x) ^ 2 := by
    rw [Nat.mul_comm, Nat.pow_mul, Nat.cast_pow]
    exact pow_dvd_pow_of_dvd h 2
  have hmod := (residue_upd a x W).of_dvd (Int.natCast_dvd_natCast.mpr (pow_dvd_pow 2 (min_le_right (2 * k) W.bits)))
  exact hmod.dvd_iff.mpr ((Int.natCast_dvd_natCast.mpr (pow_dvd_pow 2 (min_le_left ..))).trans hsquare)

/-- Settles O35: k is positive, since nothing is 1 modulo 1. -/
theorem precisionDoubles : Obligations.PrecisionDoubles := by
  intro W a x k _ _ _ h
  refine mul_upd_mod (Nat.pos_of_ne_zero ?_) h
  rintro rfl
  rw [Nat.pow_zero, Nat.mod_one] at h
  cases h

theorem odd_mul_self_mod_eight (h : a % 2 = 1) : a * a % 8 = 1 := by
  have : a % 8 = 1 ∨ a % 8 = 3 ∨ a % 8 = 5 ∨ a % 8 = 7 := by omega
  obtain h | h | h | h := this <;> rw [Nat.mul_mod, h]

/-- The precision of x_i is at least k_i (R127). -/
theorem mul_approx_mod (hodd : a % 2 = 1) (i : Nat) : a * approx a W i % 2 ^ threshold W i = 1 := by
  induction i with
  | zero =>
    rw [threshold_zero]
    exact odd_mul_self_mod_eight hodd
  | succ i ih =>
    rw [threshold_succ]
    exact mul_upd_mod (threshold_pos W i) ih

theorem mask_mulMod (hk : k ≤ W.bits) (p q : Nat) : mask k (mulMod W p q : Int) = q * p % 2 ^ k := by
  rw [mask_natCast, mulMod, Nat.mod_mod_of_dvd _ (pow_dvd_pow 2 hk), Nat.mul_comm]

theorem checkpoint_approx (hodd : a % 2 = 1) (i : Nat) :
    mask (threshold W i) (mulMod W (approx a W i) a : Int) = 1 := by
  rw [mask_mulMod (threshold_le W i)]
  exact mul_approx_mod hodd i

/-- x_N is exact (R127). -/
theorem mul_approx_updates (hodd : a % 2 = 1) : a * approx a W (updates W) % 2 ^ W.bits = 1 := by
  have h := mul_approx_mod (W := W) hodd (updates W)
  rwa [threshold_updates] at h

theorem odd_of_mul_mod (hk : 0 < k) (h : a * x % 2 ^ k = 1) : a % 2 = 1 ∧ x % 2 = 1 := by
  have h2 : a * x % 2 = 1 := by
    rw [← Nat.mod_mod_of_dvd (a * x) (dvd_pow_self 2 hk.ne'), h]
  exact Nat.odd_mul.mp (Nat.odd_iff.mpr h2) |>.imp Nat.odd_iff.mp Nat.odd_iff.mp

theorem approx_updates_odd (hodd : a % 2 = 1) : approx a W (updates W) % 2 = 1 :=
  (odd_of_mul_mod (Width.bits_pos W) (mul_approx_updates hodd)).2

theorem approx_lt (ha : a < 2 ^ W.bits) (i : Nat) : approx a W i < 2 ^ W.bits := by
  cases i with
  | zero => exact ha
  | succ i => exact upd_lt ..

/-- The residue of x_i is that of x_0 = a squared i times. -/
theorem residue_approx (a : Nat) (W : Width) (i : Nat) :
    (1 - a * approx a W i : Int) ≡ (1 - a * a) ^ 2 ^ i [ZMOD (2 ^ W.bits : Nat)] := by
  induction i with
  | zero =>
    rw [pow_zero, pow_one]
    rfl
  | succ i ih =>
    rw [pow_succ, pow_mul]
    exact (residue_upd a (approx a W i) W).trans (ih.pow 2)

/-- For a = 3 the residue of x_i is ±2^(3·2^i), so one bit more than 3·2^i is never correct. -/
theorem three_mul_approx_mod_ne {i : Nat} (hi : 3 * 2 ^ i < W.bits) : 3 * approx 3 W i % 2 ^ (3 * 2 ^ i + 1) ≠ 1 := by
  rw [ne_eq, mod_two_pow_eq_one_iff (Nat.succ_pos _), Nat.cast_mul]
  intro h
  have hmod := (residue_approx 3 W i).of_dvd (Int.natCast_dvd_natCast.mpr (pow_dvd_pow 2 (Nat.succ_le_of_lt hi)))
  have hdvd := Int.natAbs_dvd_natAbs.mpr (hmod.dvd_iff.mp h)
  rw [Int.natAbs_natCast, Int.natAbs_pow, show (1 - (3 : Nat) * (3 : Nat) : Int).natAbs = 2 ^ 3 from rfl, ← pow_mul,
    Nat.pow_dvd_pow_iff_le_right (by decide)] at hdvd
  omega

/-- Settles O36: the checkpoints by `mul_approx_mod`, the tightness by the residue of a = 3. -/
theorem noCheckpointFails : Obligations.NoCheckpointFails := by
  refine ⟨fun W a _ hodd => ⟨fun i _ => checkpoint_approx hodd i, ?_, approx_updates_odd hodd⟩,
    fun W i _ hi => ⟨?_, ?_⟩⟩
  · rw [mulMod, Nat.mul_comm]
    exact mul_approx_updates hodd
  · have h := checkpoint_approx (a := 3) (W := W) rfl i
    rwa [threshold, min_eq_left hi.le] at h
  · rw [mask_mulMod hi]
    exact three_mul_approx_mod_ne hi

/-! The one inverse modulo 2^W (R128). -/

theorem inverse_unique (hx : x < 2 ^ W.bits) (hy : y < 2 ^ W.bits) (hax : a * x % 2 ^ W.bits = 1)
    (hay : a * y % 2 ^ W.bits = 1) : x = y := by
  have hodd := (odd_of_mul_mod (Width.bits_pos W) hax).1
  have hcoprime : (2 ^ W.bits).gcd a = 1 := Nat.Coprime.pow_left _ (Nat.coprime_two_left.mpr (Nat.odd_iff.mpr hodd))
  exact (Nat.ModEq.cancel_left_of_coprime hcoprime (hax.trans hay.symm)).eq_of_lt_of_lt hx hy

theorem upd_of_inverse (hx : x < 2 ^ W.bits) (hax : a * x % 2 ^ W.bits = 1) : upd a x W = x := by
  have h := mul_upd_mod (W := W) (Width.bits_pos W) hax
  rw [min_eq_right (by omega)] at h
  exact inverse_unique (upd_lt ..) hx h hax

end Sys2Proof.Machine
end

section
/-! INV as a command: its engine step by cases, its whole run, and the laws of the RESULT a run returns
(41_inverse_engine R122, R124, R125, R128 to R130). -/

namespace Sys2Proof.Machine

variable {s : State} {a : Word64} {W : Width} {i : Nat}

/-! The engine step in Inv(i), an equation for each branch of R122. -/

theorem stepInv_checkpointFails
    (h : mask (threshold s.engW i) (mulMod s.engW s.engX.toNat s.engAW.toNat : Int) ≠ 1) :
    stepInv i s = raiseInternalInvariant (BitVec.ofNat 4 i) s := if_pos h

theorem stepInv_update (h : mask (threshold s.engW i) (mulMod s.engW s.engX.toNat s.engAW.toNat : Int) = 1)
    (hi : i < updates s.engW) :
    stepInv i s = { s with
      engX := BitVec.ofNat 64 (upd s.engAW.toNat s.engX.toNat s.engW), phase := .inv (i + 1) } := by
  rw [stepInv, if_neg (not_not.mpr h), if_pos hi]

theorem stepInv_finalCheckFails
    (h : mask (threshold s.engW i) (mulMod s.engW s.engX.toNat s.engAW.toNat : Int) = 1) (hi : updates s.engW ≤ i)
    (hfinal : mulMod s.engW s.engX.toNat s.engAW.toNat ≠ 1 ∨ s.engX.toNat % 2 ≠ 1) :
    stepInv i s = raiseInternalInvariant 15 s := by
  have hbit : s.engX.getLsbD 0 = false ↔ s.engX.toNat % 2 ≠ 1 := by rw [bit_zero_eq_decide, decide_eq_false_iff_not]
  rw [stepInv, if_neg (not_not.mpr h), if_neg hi.not_gt, if_pos (hfinal.imp_right hbit.mpr)]

theorem stepInv_completes (hprod : mulMod s.engW s.engX.toNat s.engAW.toNat = 1) (hodd : s.engX.toNat % 2 = 1)
    (hi : updates s.engW ≤ i) : stepInv i s = complete (some s.engX) s := by
  have hbit : s.engX.getLsbD 0 = true := by rw [bit_zero_eq_decide, hodd]; rfl
  rw [stepInv, if_neg (not_not.mpr (checkpoint_of_product_one _ i hprod)), if_neg hi.not_gt,
    if_neg (by simp [hprod, hbit])]

/-! The run of INV (R122, R124). -/

/-- The state of an INV of `a` in phase Inv(i), accepted in `s`: eng.X holds x_i. -/
def inverseAt (W : Width) (a i : Nat) (s : State) : State :=
  { s with
    status := Status.inProgress, result := none, engW := W,
    engAW := BitVec.ofNat 64 a, engX := BitVec.ofNat 64 (approx a W i), phase := .inv i }

/-- The state an INV of `a` accepted in `s` ends in. -/
def inverseDone (W : Width) (a : Nat) (s : State) : State :=
  complete (some (BitVec.ofNat 64 (approx a W (updates W)))) (inverseAt W a (updates W) s)

theorem inverseDone_operandA (W : Width) (a : Nat) (s : State) : (inverseDone W a s).operandA = s.operandA := rfl

theorem inverseDone_result (W : Width) (a : Nat) (s : State) :
    (inverseDone W a s).result = some (BitVec.ofNat 64 (approx a W (updates W))) := rfl

theorem inverseDone_status (W : Width) (a : Nat) (s : State) : (inverseDone W a s).status = Status.succeeded := rfl

theorem inverseDone_ready (W : Width) (a : Nat) (s : State) : Ready (inverseDone W a s) := ⟨rfl, rfl⟩

theorem inverseDone_withoutLatches (W : Width) (a : Nat) (s : State) :
    (inverseDone W a s).withoutLatches = State.withoutLatches { s with
      status := Status.succeeded
      result := some (BitVec.ofNat 64 (approx a W (updates W)))
      phase := .idle } := rfl

theorem truncated_lt (W : Width) (a : Word64) : a.toNat % 2 ^ W.bits < 2 ^ W.bits := Nat.mod_lt _ (Nat.two_pow_pos _)

/-- Truncation keeps parity (R130). -/
theorem truncated_mod_two (W : Width) (a : Word64) : a.toNat % 2 ^ W.bits % 2 = a.toNat % 2 :=
  Nat.mod_mod_of_dvd _ (dvd_pow_self 2 (Width.bits_pos W).ne')

theorem exec_inv_inverseAt (hready : Ready s) (hA : s.operandA = some a) (hodd : a.toNat % 2 = 1) :
    exec (invOf W) s = .next (inverseAt W (a.toNat % 2 ^ W.bits) 0 s) :=
  exec_inv_odd hready hA ((truncated_mod_two W a).trans hodd)

section
variable {n : Nat}

theorem inverseAt_engX_toNat (hn : n < 2 ^ W.bits) (i : Nat) : (inverseAt W n i s).engX.toNat = approx n W i :=
  toNat_ofNat_of_lt_bits W (approx_lt hn i)

theorem inverseAt_engAW_toNat (hn : n < 2 ^ W.bits) (i : Nat) : (inverseAt W n i s).engAW.toNat = n :=
  toNat_ofNat_of_lt_bits W hn

theorem inverseAt_checkpoint (hn : n < 2 ^ W.bits) (hodd : n % 2 = 1) (i : Nat) :
    mask (threshold W i) (mulMod W (inverseAt W n i s).engX.toNat (inverseAt W n i s).engAW.toNat : Int) = 1 := by
  rw [inverseAt_engX_toNat hn, inverseAt_engAW_toNat hn]
  exact checkpoint_approx hodd i

theorem engineStep_inverseAt (hn : n < 2 ^ W.bits) (hodd : n % 2 = 1) (hi : i < updates W) :
    engineStep (inverseAt W n i s) = .next (inverseAt W n (i + 1) s) := by
  rw [engineStep_inv rfl, stepInv_update (inverseAt_checkpoint hn hodd i) hi, inverseAt_engX_toNat hn,
    inverseAt_engAW_toNat hn]
  rfl

theorem engineStep_inverseAt_updates (hn : n < 2 ^ W.bits) (hodd : n % 2 = 1) :
    engineStep (inverseAt W n (updates W) s) = .next (inverseDone W n s) := by
  rw [engineStep_inv rfl]
  refine congrArg Host.Outcome.next (stepInv_completes (s := inverseAt W n (updates W) s) ?_ ?_ le_rfl)
  · rw [inverseAt_engX_toNat hn, inverseAt_engAW_toNat hn, mulMod, Nat.mul_comm]
    exact mul_approx_updates hodd
  · rw [inverseAt_engX_toNat hn]
    exact approx_updates_odd hodd

/-- From Inv(i) the updates left and the final step complete the run; engine steps beyond them do not happen. -/
theorem settle_inverseAt (hn : n < 2 ^ W.bits) (hodd : n % 2 = 1) {fuel : Nat} (hi : i ≤ updates W)
    (hfuel : updates W < fuel + i) : settle fuel (inverseAt W n i s) = .next (inverseDone W n s) := by
  induction fuel generalizing i with
  | zero => omega
  | succ fuel ih =>
    obtain rfl | hlt := hi.eq_or_lt
    · rw [settle_succ fuel rfl (engineStep_inverseAt_updates hn hodd)]
      exact settle_of_not_busy fuel rfl
    · rw [settle_succ fuel rfl (engineStep_inverseAt hn hodd hlt)]
      exact ih hlt (by omega)

end

/-- What `runCommand` does on INV of an odd operand. -/
theorem runCommand_inv (hready : Ready s) (hA : s.operandA = some a) (hodd : a.toNat % 2 = 1) :
    runCommand (invOf W) s = .next (inverseDone W (a.toNat % 2 ^ W.bits) s) := by
  have hN := updates_le W
  rw [runCommand, exec_inv_inverseAt hready hA hodd]
  exact settle_inverseAt (truncated_lt W a) ((truncated_mod_two W a).trans hodd) (Nat.zero_le _) (by omega)

/-- Settles O33: N(W) + 1 engine steps are just enough for `settle_inverseAt`. -/
theorem invResult : Obligations.InvResult := by
  intro W s a hready hA hodd
  have hlt := approx_lt (truncated_lt W a) (updates W)
  refine ⟨_, exec_inv_inverseAt hready hA hodd, ?_, hlt, ?_⟩
  · rw [EndsAs, settle_inverseAt (truncated_lt W a) ((truncated_mod_two W a).trans hodd) (Nat.zero_le _)
      (Nat.lt_succ_self _), seen, inverseDone_withoutLatches]
  · rintro rfl
    refine BitVec.eq_of_toNat_eq ?_
    rw [BitVec.extractLsb'_toNat, toNat_ofNat_of_lt_bits _ hlt, Nat.shiftRight_eq_zero _ 32 hlt]
    rfl

/-- Settles O34: checkpoint 0 is the square's one modulo 8, on the latched operand. -/
theorem initialPrecision : Obligations.InitialPrecision := by
  refine ⟨fun _ => odd_mul_self_mod_eight, fun W s a hready hA hodd => ?_⟩
  exact ⟨_, exec_inv_inverseAt hready hA hodd, rfl,
    inverseAt_checkpoint (truncated_lt W a) ((truncated_mod_two W a).trans hodd) 0⟩

/-! The laws of RESULT (R128 to R130). -/

/-- The run returns the inverse of the register's value, not only of its truncation. -/
theorem inverseDone_isInverse (W : Width) (hodd : a.toNat % 2 = 1) :
    a.toNat * approx (a.toNat % 2 ^ W.bits) W (updates W) % 2 ^ W.bits = 1 := by
  rw [← Nat.mod_mul_mod]
  exact mul_approx_updates ((truncated_mod_two W a).trans hodd)

/-- A run whose operand has the inverse `x` returns `x` (R128). -/
theorem runCommand_inv_result {x : Nat} (hready : Ready s) (hA : s.operandA = some a) (hx : x < 2 ^ W.bits)
    (hax : a.toNat * x % 2 ^ W.bits = 1) :
    ∃ t, runCommand (invOf W) s = .next t ∧ t.result = some (BitVec.ofNat 64 x) := by
  have hodd := (odd_of_mul_mod (Width.bits_pos W) hax).1
  refine ⟨_, runCommand_inv hready hA hodd, ?_⟩
  rw [inverseDone_result, inverse_unique (approx_lt (truncated_lt W a) _) hx (inverseDone_isInverse W hodd) hax]

/-- Settles O37: what the run returns is an inverse, and an inverse is unique and a fixed point. -/
theorem inverseUniqueAndReturned : Obligations.InverseUniqueAndReturned := by
  intro W s a hready hA hodd
  have hlt := approx_lt (truncated_lt W a) (updates W)
  have hinv := inverseDone_isInverse W hodd
  refine ⟨_, _, runCommand_inv hready hA hodd, inverseDone_status .., inverseDone_result .., ?_⟩
  rw [toNat_ofNat_of_lt_bits W hlt]
  refine ⟨hlt, hinv, (odd_of_mul_mod (Width.bits_pos W) hinv).2, fun y hy hay => inverse_unique hy hlt hay hinv, ?_⟩
  exact upd_of_inverse hlt (mul_approx_updates ((truncated_mod_two W a).trans hodd))

/-- The low half of an inverse modulo 2^64 is an inverse modulo 2^32. -/
theorem mul_lowHalf_mod {n x : Nat} (h : n * x % 2 ^ 64 = 1) : n * (x % 2 ^ 32) % 2 ^ 32 = 1 := by
  rw [Nat.mul_mod_mod, ← Nat.mod_mod_of_dvd _ (pow_dvd_pow 2 (show 32 ≤ 64 by decide)), h]
  rfl

/-- Settles O38: both runs return the inverse at their width. -/
theorem widthsAgree : Obligations.WidthsAgree := by
  intro s s' a hready hready' hA hA' hodd
  have hlt := approx_lt (truncated_lt .w64 a) (updates .w64)
  obtain ⟨t, hrun, hres⟩ := runCommand_inv_result (W := .w32) hready hA (Nat.mod_lt _ (Nat.two_pow_pos _))
    (mul_lowHalf_mod (inverseDone_isInverse .w64 hodd))
  refine ⟨t, _, _, _, hrun, hres, runCommand_inv (W := .w64) hready' hA' hodd, inverseDone_result .., ?_⟩
  rw [toNat_ofNat_of_lt_bits .w64 hlt, toNat_ofNat_of_lt_bits .w32 (Nat.mod_lt _ (Nat.two_pow_pos _))]
  rfl

/-- -1 is its own inverse modulo 2^W. -/
theorem neg_one_mul_self_mod (W : Width) : (2 ^ W.bits - 1) * (2 ^ W.bits - 1) % 2 ^ W.bits = 1 := by
  cases W <;> rfl

/-- Settles O39: 1 and -1 are their own inverses, and RESULT depends on the truncated operand alone. -/
theorem invCornerCases : Obligations.InvCornerCases := by
  intro W s a hready hA
  have hpar := truncated_mod_two W a
  refine ⟨?_, fun hneg => ?_, fun heven => ?_, hpar, fun a' heq hodd => ?_, fun hodd => ?_⟩
  · rintro rfl
    exact runCommand_inv_result hready hA (Nat.one_lt_two_pow (Width.bits_pos W).ne')
      (Nat.one_mod_two_pow (Width.bits_pos W))
  · refine runCommand_inv_result hready hA (Nat.sub_lt (Nat.two_pow_pos _) Nat.one_pos) ?_
    rw [← Nat.mod_mul_mod, hneg]
    exact neg_one_mul_self_mod W
  · have hbit : a.getLsbD 0 = false := by rw [bit_zero_eq_decide, heven]; rfl
    refine ⟨_, exec_of_accepted hready (.invEven W hA hbit), ?_, rfl⟩
    rw [cleared_of_ready hready]
    rfl
  · have hodd' : a'.toNat % 2 = 1 := by rw [← truncated_mod_two W, heq, hpar, hodd]
    refine ⟨_, _, runCommand_inv hready hA hodd,
      runCommand_inv (s := { s with operandA := some a' }) hready rfl hodd', ?_⟩
    rw [inverseDone_result, inverseDone_result, heq]
  · have hkept := (inverseDone_operandA W (a.toNat % 2 ^ W.bits) s).trans hA
    exact ⟨_, _, runCommand_inv hready hA hodd, hkept, runCommand_inv (inverseDone_ready ..) hkept hodd,
      (inverseDone_result ..).trans (inverseDone_result ..).symm⟩

/-! R122 itself. -/

theorem checkpoint_eq_mod (W : Width) (i p q : Nat) :
    mask (threshold W i) (mulMod W p q : Int) = p * q % 2 ^ W.bits % 2 ^ min (3 * 2 ^ i) W.bits :=
  mask_natCast ..

theorem updates_eq {N : Nat} (h32 : W.bits = 32 → N = 4) (h64 : W.bits = 64 → N = 6) : N = updates W := by
  cases W with
  | w32 => exact h32 rfl
  | w64 => exact h64 rfl

/-- Settles O32: acceptance by parity, the branches of the step, and the example by the uniqueness of the inverse. -/
theorem invFollowsItsRule : Obligations.InvFollowsItsRule := by
  refine ⟨rfl, rfl, fun W s a hready hA => ⟨fun heven => ?_, fun hodd => ?_⟩, ?_, fun s hready hA => ?_⟩
  · exact exec_inv_even hready hA ((truncated_mod_two W a).trans heven)
  · exact exec_inv_odd hready hA ((truncated_mod_two W a).trans hodd)
  · rintro W N s i a x hp rfl h32 h64 rfl rfl
    obtain rfl := updates_eq h32 h64
    rw [engineStep_inv hp, ← checkpoint_eq_mod]
    refine ⟨fun hcheck hi => by rw [stepInv_update hcheck hi], fun hend => ?_⟩
    split
    case isTrue hcheck =>
      rw [stepInv_checkpointFails hcheck]
      exact endsAs_of_dropLatches rfl
    case isFalse hcheck =>
      have hcheck := not_not.mp hcheck
      have hi := hend.resolve_left (not_not.mpr hcheck)
      split
      case isTrue hfinal =>
        rw [stepInv_finalCheckFails hcheck hi hfinal]
        exact endsAs_of_dropLatches rfl
      case isFalse hfinal =>
        obtain ⟨hprod, hodd⟩ := not_or.mp hfinal
        rw [stepInv_completes (not_not.mp hprod) (not_not.mp hodd) hi, BitVec.ofNat_toNat, BitVec.setWidth_eq]
        exact endsAs_of_dropLatches rfl
  · exact runCommand_inv_result (W := .w64) (x := 0xAAAA_AAAA_AAAA_AAAB) hready hA (by decide) (by decide)

end Sys2Proof.Machine
end

section
/-! Proofs for 42_fixed_width_multiplier: the two sub-units, the acceptance and the engine step of MULW, its corner cases, and
the product of an odd operand and its INV result (R150 to R154, R170). -/

namespace Sys2Proof.Machine

variable {s : State} {a b : Word64} {W : Width}

/-! The two sub-units (R150, R170). -/

/-- MASK_k of an integer is the k-bit word congruent to it. -/
theorem mask_eq_intCast_toNat (k : Nat) (v : Int) : mask k v = (v : BitVec k).toNat := rfl

theorem mask_zero (v : Int) : mask 0 v = 0 := Nat.lt_one_iff.mp (mask_lt 0 v)

theorem mask_word (v : Word64) : mask 64 (v.toNat : Int) = v.toNat := by
  rw [mask_natCast, Nat.mod_eq_of_lt v.isLt]

theorem mask_sub_words (p q : Word64) : mask 64 ((p.toNat : Int) - (q.toNat : Int)) = (p - q).toNat := by
  rw [mask_eq_intCast_toNat]
  push_cast
  simp only [BitVec.natCast_eq_ofNat, BitVec.ofNat_toNat, BitVec.setWidth_eq]

theorem mulMod_truncated (W : Width) (p q : Nat) : mulMod W (p % 2 ^ W.bits) (q % 2 ^ W.bits) = mulMod W p q :=
  (Nat.mul_mod ..).symm

/-- Settles O40: MASK_k by range and quotient, and the modulus of a product by that of its factors. -/
theorem subUnitsCompute : Obligations.SubUnitsCompute := by
  refine ⟨fun k v => ⟨mask_lt k v, v / ((2 ^ k : Nat) : Int), ?_⟩, mask_zero, mask_word, fun k n => ?_, mask_sub_words,
    fun W p q => ⟨rfl, mulMod_lt W p q, (mulMod_truncated W p q).symm⟩⟩
  · rw [mask_cast, Int.ediv_mul_add_emod]
  · rw [mask_natCast, Nat.and_two_pow_sub_one_eq_mod]

/-! The run of MULW (R151, R152). -/

/-- The word a MULW of `a` and `b` leaves in RESULT. -/
def mulwResult (W : Width) (a b : Word64) : Word64 := BitVec.ofNat 64 (a.toNat * b.toNat % 2 ^ W.bits)

theorem mulwResult_toNat (W : Width) (a b : Word64) :
    (mulwResult W a b).toNat = a.toNat * b.toNat % 2 ^ W.bits :=
  toNat_ofNat_of_lt_bits W (Nat.mod_lt _ (Nat.two_pow_pos _))

theorem mulwResult_lt (W : Width) (a b : Word64) : (mulwResult W a b).toNat < 2 ^ W.bits := by
  rw [mulwResult_toNat]
  exact Nat.mod_lt _ (Nat.two_pow_pos _)

/-- The state of a MULW of `a` and `b` in phase Mul, accepted in `s`. -/
def multiplyAt (W : Width) (a b : Word64) (s : State) : State :=
  { s with
    status := Status.inProgress, result := none, engW := W,
    engAW := BitVec.ofNat 64 (a.toNat % 2 ^ W.bits), engBW := BitVec.ofNat 64 (b.toNat % 2 ^ W.bits),
    phase := .mul }

/-- The state a MULW of `a` and `b` accepted in `s` ends in. -/
def multiplyDone (W : Width) (a b : Word64) (s : State) : State :=
  complete (some (mulwResult W a b)) (multiplyAt W a b s)

theorem multiplyDone_result (W : Width) (a b : Word64) (s : State) :
    (multiplyDone W a b s).result = some (mulwResult W a b) := rfl

theorem multiplyDone_operandA (W : Width) (a b : Word64) (s : State) :
    (multiplyDone W a b s).operandA = s.operandA := rfl

theorem multiplyDone_operandB (W : Width) (a b : Word64) (s : State) :
    (multiplyDone W a b s).operandB = s.operandB := rfl

/-- The engine multiplies the latched operands, which gives the product of the registers' values (R150, R152). -/
theorem engineStep_multiplyAt (W : Width) (a b : Word64) (s : State) :
    engineStep (multiplyAt W a b s) = .next (multiplyDone W a b s) := by
  have hA : (multiplyAt W a b s).engAW.toNat = a.toNat % 2 ^ W.bits := toNat_ofNat_of_lt_bits W (truncated_lt W a)
  have hB : (multiplyAt W a b s).engBW.toNat = b.toNat % 2 ^ W.bits := toNat_ofNat_of_lt_bits W (truncated_lt W b)
  have hW : (multiplyAt W a b s).engW = W := rfl
  rw [engineStep_mul rfl, stepMul, hA, hB, hW, mulMod_truncated]
  rfl

/-- What `runCommand` does on MULW of any two values. -/
theorem runCommand_mulw (hready : Ready s) (hA : s.operandA = some a) (hB : s.operandB = some b) :
    runCommand (mulwOf W) s = .next (multiplyDone W a b s) := by
  rw [runCommand, exec_mulw_written hready hA hB]
  exact (settle_succ 6 rfl (engineStep_multiplyAt W a b s)).trans (settle_of_not_busy 6 rfl)

/-- A product of 32-bit width leaves the high half 0 (R152). -/
theorem mulwResult_w32_highHalf (a b : Word64) : (mulwResult .w32 a b).extractLsb' 32 32 = 0 := by
  refine BitVec.eq_of_toNat_eq ?_
  rw [BitVec.extractLsb'_toNat, Nat.shiftRight_eq_zero _ 32 (mulwResult_lt .w32 a b)]
  rfl

/-- Settles O41: the two arms of acceptance, then the one engine step. -/
theorem mulwFollowsItsRule : Obligations.MulwFollowsItsRule := by
  refine ⟨rfl, rfl, fun _ _ => exec_mulw_unwritten, fun W s a b hready hA hB => ?_, fun s hready hA hB => ?_⟩
  · refine ⟨_, rfl, exec_mulw_written hready hA hB, endsAs_of_dropLatches (engineStep_multiplyAt W a b s), ?_⟩
    rintro rfl
    exact mulwResult_w32_highHalf a b
  · have hproduct : mulwResult .w64 3 0xAAAA_AAAA_AAAA_AAAB = 1 := rfl
    exact ⟨_, runCommand_mulw (W := .w64) hready hA hB, hproduct ▸ multiplyDone_result ..⟩

/-! The corner cases (R153) and the product check (R154). -/

theorem mulwResult_toNat_truncated (W : Width) (a b : Word64) :
    (mulwResult W a b).toNat = (a.toNat % 2 ^ W.bits) * (b.toNat % 2 ^ W.bits) % 2 ^ W.bits := by
  rw [mulwResult_toNat, Nat.mul_mod]

theorem mulwResult_comm (W : Width) (a b : Word64) : mulwResult W a b = mulwResult W b a := by
  rw [mulwResult, Nat.mul_comm, mulwResult]

theorem mulwResult_zero_left (W : Width) (b : Word64) : mulwResult W 0 b = 0 := by
  simp [mulwResult]

/-- Settles O42: laws of the product, of which the corner cases are instances. -/
theorem mulwCornerCases : Obligations.MulwCornerCases := by
  intro W s a b hready hA hB
  refine ⟨_, _, runCommand_mulw hready hA hB, multiplyDone_result .., (multiplyDone_operandA ..).trans hA,
    (multiplyDone_operandB ..).trans hB, ?_, ?_, fun ha hb => BitVec.eq_of_toNat_eq ?_,
    mulwResult_toNat_truncated W a b, ?_⟩
  · rintro (rfl | rfl)
    · exact mulwResult_zero_left W b
    · rw [mulwResult_comm, mulwResult_zero_left]
  · rintro rfl rfl rfl
    rfl
  · rw [mulwResult_toNat_truncated, ha, hb]
    exact neg_one_mul_self_mod W
  · refine ⟨_, runCommand_mulw (s := { s with operandA := some b, operandB := some a }) hready rfl rfl, ?_⟩
    rw [multiplyDone_result, mulwResult_comm]

/-- Settles O43: INV leaves OPERAND_A as it is and an inverse of it in RESULT, so MULW of the two gives 1. -/
theorem productCheck : Obligations.ProductCheck := by
  intro W s a hready hA hodd
  have hdone := inverseDone_ready W (a.toNat % 2 ^ W.bits) s
  have hproduct : mulwResult W a (BitVec.ofNat 64 (approx (a.toNat % 2 ^ W.bits) W (updates W))) = 1 := by
    refine BitVec.eq_of_toNat_eq ?_
    rw [mulwResult_toNat, toNat_ofNat_of_lt_bits W (approx_lt (truncated_lt W a) _)]
    exact inverseDone_isInverse W hodd
  refine ⟨_, _, _, _, runCommand_inv hready hA hodd, memRead_result (inverseDone_result ..),
    (memWrite_operandB ..).trans (gatedWrite_open hdone.1 hdone.2), runCommand_mulw hdone hA rfl, memRead_result ?_⟩
  rw [multiplyDone_result, hproduct]

end Sys2Proof.Machine
end

section
/-! Proofs for 43_mask_and_truncate: the encoding, the acceptance and the engine step of TRUNC, and its corner cases (R171 to
R173). -/

namespace Sys2Proof.Machine

variable {s : State} {v a : Word64} {k : BitVec 7}

/-! The word TRUNC computes (R172). -/

/-- The word a TRUNC of `a` to `n` bits leaves in RESULT. -/
def truncResult (n : Nat) (a : Word64) : Word64 := BitVec.ofNat 64 (a.toNat % 2 ^ n)

theorem truncResult_toNat (n : Nat) (a : Word64) : (truncResult n a).toNat = a.toNat % 2 ^ n := by
  have hlt : a.toNat % 2 ^ n < 2 ^ 64 := (Nat.mod_le ..).trans_lt a.isLt
  rw [truncResult, BitVec.toNat_ofNat, Nat.mod_eq_of_lt hlt]

/-- TRUNC keeps the bits below `n` and clears the others. -/
theorem truncResult_getLsbD (n : Nat) (a : Word64) (j : Nat) :
    (truncResult n a).getLsbD j = (decide (j < n) && a.getLsbD j) := by
  rw [BitVec.getLsbD, truncResult_toNat, Nat.testBit_mod_two_pow, BitVec.getLsbD]

theorem truncResult_zero (a : Word64) : truncResult 0 a = 0 := by
  rw [truncResult, pow_zero, Nat.mod_one]
  rfl

theorem truncResult_full (a : Word64) : truncResult 64 a = a := by
  refine BitVec.eq_of_toNat_eq ?_
  rw [truncResult_toNat, Nat.mod_eq_of_lt a.isLt]

/-! The run of TRUNC (R171, R172). -/

/-- A count above 64 is malformed under TRUNC's opcode, whatever the other fields hold (R87). -/
theorem malformed_of_count_gt (hop : fieldOPC v = 3) (hcount : 64 < (fieldK v).toNat) (i : Instr) : decode v ≠ .ok i :=
  forall_decode_ne_iff.mpr (.inr (.inr (.inr (.inr (.inr (.inr ⟨hcount, hop⟩)))))) i

/-- The state of a TRUNC of `a` to `n` bits in phase Trunc, accepted in `s`. -/
def truncateAt (n : Nat) (a : Word64) (s : State) : State :=
  { s with status := Status.inProgress, result := none, engK := n, engAW := a, phase := .trunc }

/-- The state a TRUNC of `a` to `n` bits accepted in `s` ends in. -/
def truncateDone (n : Nat) (a : Word64) (s : State) : State :=
  complete (some (truncResult n a)) (truncateAt n a s)

theorem truncateDone_result (n : Nat) (a : Word64) (s : State) :
    (truncateDone n a s).result = some (truncResult n a) := rfl

theorem truncateDone_operandA (n : Nat) (a : Word64) (s : State) : (truncateDone n a s).operandA = s.operandA := rfl

theorem truncateDone_operandB (n : Nat) (a : Word64) (s : State) : (truncateDone n a s).operandB = s.operandB := rfl

/-- MASK_k of the latched word is its value modulo 2^k (R170, R172). -/
theorem engineStep_truncateAt (n : Nat) (a : Word64) (s : State) :
    engineStep (truncateAt n a s) = .next (truncateDone n a s) := by
  rw [engineStep_trunc rfl, stepTrunc, mask_natCast]
  rfl

/-- What `runCommand` does on TRUNC of any value. -/
theorem runCommand_trunc (hready : Ready s) (hA : s.operandA = some a) :
    runCommand (.trunc k) s = .next (truncateDone k.toNat a s) := by
  rw [runCommand, exec_trunc_written hready hA]
  exact (settle_succ 6 rfl (engineStep_truncateAt k.toNat a s)).trans (settle_of_not_busy 6 rfl)

/-- Settles O44: the encoder's equation, the decoder on counts above 64, the two arms of acceptance, and the one engine
step. -/
theorem truncFollowsItsRule : Obligations.TruncFollowsItsRule := by
  refine ⟨fun k _ => encode_trunc k, fun _ _ => exec_trunc_unwritten, fun s v hready hop hcount => ?_,
    fun k s a _ hready hA => ?_, fun s hready hA => ?_⟩
  · exact endsAs_of_dropLatches (memWrite_malformed (malformed_of_count_gt hop hcount) hready)
  · exact ⟨_, rfl, exec_trunc_written hready hA, endsAs_of_dropLatches (engineStep_truncateAt k.toNat a s)⟩
  · have hexample : truncResult 32 0x1_2345_6789 = 0x2345_6789 := rfl
    exact ⟨_, runCommand_trunc hready hA, hexample ▸ truncateDone_result ..⟩

/-! The corner cases (R173). -/

/-- Settles O45: laws of the truncated word, and a frame for the operand registers. -/
theorem truncCornerCases : Obligations.TruncCornerCases := by
  intro k s a _ hready hA
  refine ⟨_, _, runCommand_trunc hready hA, truncateDone_result .., (truncateDone_operandA ..).trans hA,
    truncateDone_operandB .., ?_, ?_, ?_, fun j hj => ?_, fun j hj => ?_⟩
  · rintro rfl
    exact truncResult_zero a
  · rintro rfl
    exact truncResult_full a
  · rintro rfl
    exact truncResult_toNat 1 a
  · rw [truncResult_getLsbD, decide_eq_false hj.not_gt, Bool.false_and]
  · rw [truncResult_getLsbD, decide_eq_true hj, Bool.true_and]

end Sys2Proof.Machine
end

section
/-! Proofs for 60_exceptions: a sound machine never fails a check of INV, who raises EVEN_OPERAND, what a failed check
reports, the order of reports, and acceptance whatever STATUS it finds (R201, R204, R205, R208, R211). -/

namespace Sys2Proof.Machine

variable {s t : State} {a : Word64} {W : Width} {i : Instr}

theorem bit_zero_eq_true_iff {v : Word64} : v.getLsbD 0 = true ↔ v.toNat % 2 = 1 := by
  rw [bit_zero_eq_decide, decide_eq_true_iff]

theorem bit_zero_eq_false_iff {v : Word64} : v.getLsbD 0 = false ↔ v.toNat % 2 = 0 := by
  rw [bit_zero_eq_decide, decide_eq_false_iff_not, Nat.mod_two_not_eq_one]

/-! The checkpoint of an INV in progress, through the engine's steps (R125 to R127, R205). -/

/-- The checkpoint as a congruence; a product that is odd has odd factors, so it carries the operand's parity. -/
theorem checkpointHolds_inv_iff {j : Nat} (hp : s.phase = .inv j) :
    checkpointHolds s = true ↔ s.engAW.toNat * s.engX.toNat % 2 ^ threshold s.engW j = 1 := by
  simp only [checkpointHolds, hp, mask_mulMod (threshold_le ..), Bool.and_eq_true, decide_eq_true_iff,
    bit_zero_eq_true_iff]
  exact ⟨And.right, fun h => ⟨(odd_of_mul_mod (threshold_pos ..) h).1, h⟩⟩

theorem checkpointHolds_of_idle (hp : s.phase = .idle) : checkpointHolds s = true := by
  rw [checkpointHolds, hp]

/-- An update doubles the precision, so the next checkpoint holds (R126). -/
theorem stepInv_update_checkpoint {j : Nat} (hp : s.phase = .inv j) (hcheck : checkpointHolds s = true) :
    checkpointHolds { s with
      engX := BitVec.ofNat 64 (upd s.engAW.toNat s.engX.toNat s.engW), phase := .inv (j + 1) } = true := by
  rw [checkpointHolds_inv_iff rfl, toNat_ofNat_of_lt_bits _ (upd_lt ..), threshold_succ]
  exact mul_upd_mod (threshold_pos ..) ((checkpointHolds_inv_iff hp).mp hcheck)

/-- At i = N(W) the checkpoint is the final check (R127). -/
theorem stepInv_completes_of_checkpoint (hp : s.phase = .inv (updates s.engW)) (hcheck : checkpointHolds s = true) :
    stepInv (updates s.engW) s = complete (some s.engX) s := by
  have hexact := (checkpointHolds_inv_iff hp).mp hcheck
  rw [threshold_updates] at hexact
  refine stepInv_completes ?_ (odd_of_mul_mod (Width.bits_pos _) hexact).2 le_rfl
  rw [mulMod, Nat.mul_comm]
  exact hexact

/-- Where the checkpoint holds, no engine step of INV fails. -/
theorem stepInv_checkpointHolds {j : Nat} (hp : s.phase = .inv j) (hfit : latchesFit s = true)
    (hcheck : checkpointHolds s = true) :
    checkpointHolds (stepInv j s) = true ∧ (stepInv j s).status.fatal = s.status.fatal := by
  obtain ⟨hj, -⟩ := latchesFit_inv hp hfit
  obtain rfl | hlt := hj.eq_or_lt
  · rw [stepInv_completes_of_checkpoint hp hcheck]
    exact ⟨rfl, rfl⟩
  · have hmask : mask (threshold s.engW j) (mulMod s.engW s.engX.toNat s.engAW.toNat : Int) = 1 := by
      rw [mask_mulMod (threshold_le ..)]
      exact (checkpointHolds_inv_iff hp).mp hcheck
    rw [stepInv_update hmask hlt]
    exact ⟨stepInv_update_checkpoint hp hcheck, rfl⟩

theorem engineStep_checkpointHolds (h : engineStep s = .next t) (hfit : latchesFit s = true)
    (hcheck : checkpointHolds s = true) : checkpointHolds t = true ∧ t.status.fatal = s.status.fatal := by
  obtain ⟨-, rfl⟩ | ⟨j, hp, rfl⟩ | ⟨-, rfl⟩ | ⟨-, rfl⟩ := engineStep_next h
  case inr.inl => exact stepInv_checkpointHolds hp hfit hcheck
  all_goals exact ⟨rfl, rfl⟩

/-- Only the acceptance of INV has a checkpoint to meet: the square of an odd operand is 1 modulo 8 (R125). -/
theorem accepted_checkpointHolds (h : Accepted s i t) (hp : s.phase = .idle) : checkpointHolds t = true := by
  cases h with
  | invOdd W _ hodd =>
    rw [← latch_bit_zero W, bit_zero_eq_true_iff] at hodd
    rw [checkpointHolds_inv_iff rfl, threshold_zero]
    exact odd_mul_self_mod_eight hodd
  | invEven => exact checkpointHolds_of_idle hp
  | nop | mulw | trunc => rfl

theorem step_of_moveOf_engine (hm : moveOf s = .engine) :
    step s = engineStep { s with schedule := s.schedule.tail } := by
  have hmove := stepTakesTheScheduledMove s
  simp only [hm] at hmove
  exact hmove.2

/-- Settles O53: an engine step takes one checkpoint to the next, and no other step reaches a phase of INV but acceptance. -/
theorem soundKeptByStep : Obligations.SoundKeptByStep := by
  rintro s t ⟨hc, hcheck, hfatal⟩ h
  refine ⟨consistentKeptByStep s t hc h, ?_⟩
  obtain ⟨-, hphase, hfit, -⟩ := hc
  obtain ⟨p, q, d, heff⟩ := step_effect h
  cases heff with
  | reset => exact ⟨rfl, rfl⟩
  | agentsOnly | writeA | writeB => exact ⟨hcheck, hfatal⟩
  | engine hm =>
    rw [step_of_moveOf_engine hm] at h
    exact (engineStep_checkpointHolds h hfit hcheck).imp_right (·.trans hfatal)
  | malformed v _ hready => exact ⟨checkpointHolds_of_idle (phase_idle_of_ready hphase hready), hfatal⟩
  | accepted v _ hready _ hacc =>
    obtain ⟨-, -, -, -, -, hkept⟩ := accepted_frame hacc
    exact ⟨accepted_checkpointHolds hacc (phase_idle_of_ready hphase hready), hkept.trans hfatal⟩

/-! EVEN_OPERAND (R201). -/

theorem exec_inv_even_next (hready : Ready s) (hA : s.operandA = some a) (heven : a.toNat % 2 = 0) :
    ∃ t, exec (invOf W) s = .next t ∧ t.status = Status.evenOperandError ∧ t.operandA = some a := by
  refine ⟨_, exec_of_accepted hready (.invEven W hA (bit_zero_eq_false_iff.mpr heven)), ?_, hA⟩
  rw [cleared_of_ready hready]
  rfl

theorem accepted_evenOperand (h : Accepted s i t) (hst : s.status = Status.zero)
    (hcause : t.status.cause = .evenOperand) :
    (∃ W, i = invOf W) ∧ ∃ a, s.operandA = some a ∧ a.toNat % 2 = 0 := by
  cases h with
  | invEven W ha heven => exact ⟨⟨W, rfl⟩, _, ha, bit_zero_eq_false_iff.mp heven⟩
  | nop | invOdd | mulw | trunc => cases (congrArg Status.cause hst).symm.trans hcause

/-- Settles O46: the parity test of INV's arm, the one arm that ends in EVEN_OPERAND. -/
theorem evenOperandOnlyFromInv : Obligations.EvenOperandOnlyFromInv := by
  refine ⟨fun W s a hready hA heven => ?_, truncated_mod_two, fun i s t hready h hcause => ?_⟩
  · obtain ⟨t, hexec, hst, hkept⟩ := exec_inv_even_next hready hA ((truncated_mod_two W a).symm.trans heven)
    exact ⟨t, hexec, congrArg Status.err hst, congrArg Status.cause hst, congrArg Status.stage hst, hkept⟩
  · obtain ⟨-, ⟨hf, -⟩ | ⟨-, hacc⟩⟩ := exec_accepted h
    · cases hready.2.symm.trans hf
    · exact accepted_evenOperand (s := { s with status := s.status.cleared }) hacc (cleared_of_ready hready) hcause

/-! A failed check (R204). -/

/-- What a step that sets FATAL is: the failure of a check in Inv(i). -/
theorem step_raises_fatal (h : step s = .next t) (hs : s.status.fatal = false) (ht : t.status.fatal = true) :
    moveOf s = .engine ∧ ∃ j, s.phase = .inv j ∧ t.phase = .halted ∧ t.result = none ∧
      (t.status.stage = BitVec.ofNat 4 j ∨ t.status.stage = 15) := by
  obtain ⟨p, q, d, heff⟩ := step_effect h
  cases heff with
  | reset => cases ht
  | agentsOnly | writeA | writeB | malformed => cases hs.symm.trans ht
  | accepted v _ _ _ hacc =>
    obtain ⟨-, -, -, -, -, hkept⟩ := accepted_frame hacc
    cases (hkept.trans hs).symm.trans ht
  | engine hm _ hend =>
    cases hend with
    | update | completed => cases hs.symm.trans ht
    | failed hp hg => exact ⟨hm, _, hp, rfl, rfl, hg⟩

/-- Settles O47: the failing branch of the step, the operation itself, and the one effect of a step that sets FATAL. -/
theorem invariantViolationReport : Obligations.InvariantViolationReport := by
  refine ⟨fun s j hp hcheck => ?_, fun s g => endsAs_of_dropLatches rfl, fun s t h hs ht => ?_⟩
  · rw [engineStep_inv hp, stepInv_checkpointFails hcheck]
    exact endsAs_of_dropLatches rfl
  · obtain ⟨hm, j, hp, hhalt, hres, hstage⟩ := step_raises_fatal h hs ht
    refine ⟨hm, ⟨j, hp⟩, hhalt, hres, fun ⟨_, _, hfit, _⟩ => hstage.imp_left fun hj => ?_⟩
    obtain ⟨hle, -⟩ := latchesFit_inv hp hfit
    rw [hj, BitVec.toNat_ofNat]
    exact (Nat.mod_le ..).trans hle

/-! The order of reports (R208). -/

theorem updates_stage_ne (W : Width) : BitVec.ofNat 4 (updates W) ≠ 15 := by cases W <;> decide

/-- Settles O48: the three reports of an acceptance, and the checkpoint before the final check. -/
theorem reportPriority : Obligations.ReportPriority := by
  refine ⟨fun s v hready hmal _ _ => ⟨_, memWrite_malformed hmal hready, rfl⟩, fun _ _ => exec_inv_unwritten,
    fun W s a hready hA heven => ?_, ?_⟩
  · obtain ⟨t, hexec, hst, -⟩ := exec_inv_even_next (W := W) hready hA heven
    exact ⟨t, hexec, hst⟩
  · rintro s _ hp rfl hcheck -
    rw [engineStep_inv hp, stepInv_checkpointFails hcheck]
    exact ⟨_, rfl, rfl, updates_stage_ne _⟩

/-! Acceptance on any STATUS that allows it (R211). -/

/-- A malformed value's acceptance has R101's common part too. -/
theorem acceptWord_eq_acceptCommand (v : Word64) : ∃ k, ∀ s, acceptWord v s = acceptCommand k s := by
  unfold acceptWord
  cases decode v with
  | ok i => exact ⟨_, exec_eq_acceptCommand i⟩
  | error e => exact ⟨_, fun _ => rfl⟩

theorem acceptCommand_of_ready {k : State → Host.Outcome State Fault Refusal} (hready : Ready s) :
    acceptCommand k s = k { s with status := Status.zero } := by
  rw [acceptCommand_open hready.1 hready.2, cleared_of_ready hready]

/-- Settles O49: the command's own part starts from STATUS = 0 on both sides. -/
theorem acceptanceErasesStatus : Obligations.AcceptanceErasesStatus := by
  intro s f v hready hb hf
  obtain ⟨k, hk⟩ := acceptWord_eq_acceptCommand v
  rw [memWrite_cmd, memWrite_cmd, hk, hk, acceptCommand_of_ready hready,
    acceptCommand_of_ready (s := { s with status := f }) ⟨hb, hf⟩]

end Sys2Proof.Machine
end

section
/-! Proofs for 70_reset_and_hazards: what a reset leaves, that it alone leaves Halted, and that it comes before the turn it
coincides with (R240, R241). -/

namespace Sys2Proof.Machine

variable {s t : State} {r : Turn} {q : List Turn}

/-! The reset input (R241). -/

theorem noStepLeft_of_resetTurn (hq : s.schedule = r :: q) (hr : r.reset = true) : noStepLeft s = false := by
  simp [noStepLeft, hq, hr]

theorem step_of_resetTurn (hq : s.schedule = r :: q) (hr : r.reset = true) :
    step s = .next (resetBlock { s with schedule := { r with reset := false } :: q }) := by
  rw [step_of_stepLeft (noStepLeft_of_resetTurn hq hr)]
  simp [scheduledStep, hq, hr]

/-- Settles O11: the step is the reset of the block, with the turn left standing. -/
theorem resetComesFirstAndAbandons : Obligations.ResetComesFirstAndAbandons := fun _ _ _ hq hr =>
  ⟨_, step_of_resetTurn hq hr, rfl, rfl, rfl, rfl, rfl, rfl, rfl, rfl⟩

/-! Halted (R211, R240). -/

theorem not_busy_of_halted (hphase : PhaseAgrees s) (hp : s.phase = .halted) : s.status.busy = false := by
  obtain ⟨hbusy, -⟩ := hphase
  rw [hbusy, hp]
  rfl

theorem not_ready_of_halted (hphase : PhaseAgrees s) (hp : s.phase = .halted) : ¬ Ready s := fun hready => by
  cases hp.symm.trans (phase_idle_of_ready hphase hready)

theorem Status.toWord_zero : Status.zero.toWord = 0 := rfl

/-- Settles O10: the engine step needs BUSY = 1 and acceptance needs FATAL = 0, and the host's other actions keep STATUS
and the phase. -/
theorem resetEffectAndOnlyExit : Obligations.ResetEffectAndOnlyExit := by
  refine ⟨fun s => ⟨resetBlock s, rfl, rfl, Status.toWord_zero, rfl, rfl, rfl, rfl⟩, fun s t ⟨_, hphase, _⟩ hp h => ?_⟩
  obtain ⟨p, q, d, heff⟩ := step_effect h
  cases heff with
  | reset hm => exact .inr hm
  | agentsOnly | writeA | writeB => exact .inl ⟨hp, rfl⟩
  | engine _ hb => cases (not_busy_of_halted hphase hp).symm.trans hb
  | malformed _ _ hready | accepted _ _ hready => exact absurd hready (not_ready_of_halted hphase hp)

end Sys2Proof.Machine
end
